-- ==== Sys2Proof/Word.lean ====
section
/-! DEFINITION. The data types of 00_scope.md rule R9 and 30_encoding.md rules R45 to R55: bytes, colours, the pulse symbol, the
pulse buffer and the command word. All values are unsigned and bit 0 is the least significant (R7). -/

namespace Sys2Proof

/-- An 8-bit channel or brightness value (R46, R47). -/
abbrev Byte := BitVec 8

/-- `PackedColor`: green in bits 23 to 16, red in bits 15 to 8, blue in bits 7 to 0 (R49). -/
abbrev PackedColor := BitVec 24

/-- `Symbol`: one 3-bit pulse symbol (R50). -/
abbrev Symbol := BitVec 3

/-- `PulseBuffer` as the 72-bit value `PBV`; byte 0, sent first, is bits 71 to 64 (R52, 20_memory.md R32). -/
abbrev PulseBuffer := BitVec 72

/-- `CommandWord`: the 33 bits `CW[32:0] = (cmd_op, cmd_arg)` (R55). -/
abbrev CommandWord := BitVec 33

/-- `Color`: the logical triple, in the order red, green, blue (R46). -/
structure Color where
  r : Byte
  g : Byte
  b : Byte
  deriving DecidableEq, Repr

/-- `ScaledColor`: the triple that SCALE produces (R48). -/
structure ScaledColor where
  sr : Byte
  sg : Byte
  sb : Byte
  deriving DecidableEq, Repr

end Sys2Proof
end

