-- ==== Sys2Proof/Config.lean ====
section
/-! DEFINITION. What the spec leaves to the implementation or the platform (00_scope.md rules R4 to R6, 92_eei_decisions.md part 5) and
the free values the machine draws where the spec says `unspecified`. A free value is opaque: no proof can see what it is. -/

namespace Sys2Proof

/-- `W_SCRATCH`, the width of the scratch accumulator: 128 by default (R5, D11). The output does not depend on it (R93). -/
abbrev Config.wScratch : Nat := 128

/-- The parameters of the serial side that the spec leaves OPEN (R5, D17, D18). Nothing the block does reads them. -/
structure Platform where
  /-- `F_SPI`, the serial clock in Hz. -/
  fSpi : Nat
  /-- `CPOL`, clock polarity. -/
  cpol : Bool
  /-- `CPHA`, clock phase. -/
  cpha : Bool
  /-- `T_LATCH`, the low time an LED needs before a new frame, in microseconds. -/
  tLatch : Nat
  deriving DecidableEq, Repr, Inhabited

/-- The platform this machine is attached to: unknown to every proof (DESIGN CHOICE: log entry 23). -/
opaque Config.platform : Platform

/-- The content of `PBUF` after `PBUF <- unspecified` (10_state.md R14; 93 U5: any value): log entry 1. -/
opaque Config.freePbuf : Nat → PulseBuffer

/-- What `tx_data` shows while `tx_valid = 0` (10_state.md R19; 93 U5: any value): log entry 2. -/
opaque Config.freeTxData : Nat → PulseBuffer

/-- What the LED shows while the spec leaves it open (60_exceptions.md R139, 70 R155; 93 U2 to U4): log entry 3. -/
opaque Config.freeLed : Nat → PackedColor

end Sys2Proof
end

