-- ==== Sys2Proof/Machine/Encode.lean ====
section
/-! DEFINITION. The ENCODE function (42_encode.md): SYMBOL, SCRATCH, TRIM, the byte-wise form, and the byte order of the buffer
(20_memory.md R31, R32). -/

namespace Sys2Proof.Machine

/-- SYMBOL (R86): the bits 1, 1, 0 for a 1 and 1, 0, 0 for a 0, most significant first. -/
def symbol (x : Bool) : Symbol := if x then 0b110#3 else 0b100#3

/-- One pass of SCRATCH's loop: the symbol of bit `i` is put at offset `3 * i` (R88). -/
def scratchPut (w : Nat) (pk : PackedColor) (acc : BitVec w) (i : Nat) : BitVec w :=
  acc ||| ((symbol (pk.getLsbD i)).setWidth w <<< (3 * i))

/-- SCRATCH's accumulator after the positions of a list have been visited, in the list's order (R87). -/
def scratchOver (w : Nat) (pk : PackedColor) (l : List Nat) : BitVec w := l.foldl (scratchPut w pk) 0#w

/-- SCRATCH (R88) in an accumulator of `w` bits: positions 0 to 23, starting at zero. -/
def scratch (w : Nat) (pk : PackedColor) : BitVec w := scratchOver w pk (List.range 24)

/-- `bytes_be_N` (00_scope.md R8): byte `k`, 0 first, is `v[8*(N-k)-1 : 8*(N-1-k)]`. -/
def bytesBE {w : Nat} (n : Nat) (v : BitVec w) : List Byte :=
  (List.range n).map fun k => v.extractLsb' (8 * (n - 1 - k)) 8

/-- TRIM (R91): the big-endian rendering with the leading bytes discarded, keeping the trailing 9. -/
def trim {w : Nat} (s : BitVec w) : List Byte := (bytesBE (w / 8) s).drop (w / 8 - 9)

/-- Byte `k` of a buffer, `PB[k] = PBV[71-8k : 64-8k]`, for `k` from 0 to 8 (20_memory.md R32). -/
def bufByte (buf : PulseBuffer) (k : Nat) : Byte := buf.extractLsb' (64 - 8 * k) 8

/-- The 9 bytes of a buffer, the one sent first in front (R31). -/
def bufBytes (buf : PulseBuffer) : List Byte := (List.range 9).map (bufByte buf)

/-- The 72-bit value of 9 bytes, the first one most significant (R32). -/
def bufOfBytes (bytes : List Byte) : PulseBuffer := bytes.foldl (fun acc b => (acc <<< 8) ||| b.setWidth 72) 0#72

/-- ENCODE with an accumulator of `w` bits, `w` a multiple of 8 and at least 72 (R90, R93). -/
def encodeVia (w : Nat) (pk : PackedColor) : PulseBuffer := bufOfBytes (trim (scratch w pk))

/-- ENCODE (R90): TRIM after SCRATCH, in the default accumulator. -/
def encode (pk : PackedColor) : PulseBuffer := encodeVia Config.wScratch pk

/-- A bit as a byte. -/
def bitByte (x : Bool) : Byte := if x then 1#8 else 0#8

/-- The three buffer bytes of one channel byte, the byte-wise form (R92). -/
def expandByte (v : Byte) : List Byte :=
  [0x92#8 ||| (bitByte (v.getLsbD 7) <<< 6) ||| (bitByte (v.getLsbD 6) <<< 3) ||| bitByte (v.getLsbD 5),
   0x49#8 ||| (bitByte (v.getLsbD 4) <<< 5) ||| (bitByte (v.getLsbD 3) <<< 2),
   0x24#8 ||| (bitByte (v.getLsbD 2) <<< 7) ||| (bitByte (v.getLsbD 1) <<< 4) ||| (bitByte (v.getLsbD 0) <<< 1)]

/-- ENCODE in its byte-wise form (R92): the bytes of bits 23 to 16, of bits 15 to 8, of bits 7 to 0. -/
def encodeBytewise (pk : PackedColor) : List Byte :=
  expandByte (pk.extractLsb' 16 8) ++ expandByte (pk.extractLsb' 8 8) ++ expandByte (pk.extractLsb' 0 8)

end Sys2Proof.Machine
end

