-- ==== Sys2Proof/Machine/Pack.lean ====
section
/-! DEFINITION. The PACK function (41_pack.md): ScaledColor to the 24-bit PackedColor in the order green, red, blue. -/

namespace Sys2Proof.Machine

/-- PACK (R76): green to bits 23 to 16, red to bits 15 to 8, blue to bits 7 to 0. Nothing inside a channel is permuted (R77). -/
def pack (c : ScaledColor) : PackedColor :=
  (c.sg.setWidth 24 <<< 16) ||| (c.sr.setWidth 24 <<< 8) ||| c.sb.setWidth 24

/-- The green field `pk[23:16]` (30_encoding.md R49). -/
def greenOf (pk : PackedColor) : Byte := pk.extractLsb' 16 8

/-- The red field `pk[15:8]` (R49). -/
def redOf (pk : PackedColor) : Byte := pk.extractLsb' 8 8

/-- The blue field `pk[7:0]` (R49). -/
def blueOf (pk : PackedColor) : Byte := pk.extractLsb' 0 8

/-- The inverse of PACK (R78 (b)). -/
def unpack (pk : PackedColor) : ScaledColor where
  sr := redOf pk
  sg := greenOf pk
  sb := blueOf pk

end Sys2Proof.Machine
end

