-- ==== Sys2Proof/Machine/Scale.lean ====
section
/-! DEFINITION. The SCALE function (40_scale.md): colour and brightness to ScaledColor, in exact arithmetic (rule R66, decision D9). -/

namespace Sys2Proof.Machine

/-- The divisor of the scale factor: 255, not 100 (R65). -/
def scaleDiv : Nat := 255

/-- One channel: `floor((c * br) / 255)` over the integers (R66). The quotient is at most 255 (R68 (a)). -/
def scaleChannel (c br : Byte) : Byte := BitVec.ofNat 8 (c.toNat * br.toNat / scaleDiv)

/-- SCALE (R66): the three channels independently, by the same brightness; total (R67). -/
def scale (c : Color) (br : Byte) : ScaledColor where
  sr := scaleChannel c.r br
  sg := scaleChannel c.g br
  sb := scaleChannel c.b br

/-- The pairs `(c, br)` on which the 64-bit floating-point reading of the formula differs (R70 (b)). -/
def binary64Pairs : List (Nat × Nat) :=
  [(51, 155), (75, 187), (85, 147), (85, 171), (102, 155), (150, 187),
   (153, 155), (153, 195), (165, 187), (170, 147), (170, 171), (204, 155)]

/-- The 64-bit floating-point reading of one channel, as R70 (b) tabulates it: one less on the twelve pairs. For study only; the
machine uses `scaleChannel` (D9, log entry 13). -/
def scaleChannelBinary64 (c br : Byte) : Byte :=
  if (c.toNat, br.toNat) ∈ binary64Pairs then scaleChannel c br - 1 else scaleChannel c br

end Sys2Proof.Machine
end

