-- ==== Sys2Proof/Machine/Operands.lean ====
section
/-! DEFINITION. From a command's operands to the buffer it sends (30_encoding.md R54, 43_commands_and_transport.md R102, R103, R107).
No operand is sign-extended, scaled, shifted or rotated on its way (R54). -/

namespace Sys2Proof.Machine

/-- SHOWC's operands `r`, `g`, `b` as a Color, as they stand (R54, R57). -/
def colorOperand (r g b : Byte) : Color where
  r := r
  g := g
  b := b

/-- The packed colour SHOWC sends: SCALE, then PACK (R103). -/
def packedOperand (c : Color) (br : Byte) : PackedColor := pack (scale c br)

/-- FRAME, "color-to-bitstream" (R107). -/
def frame (c : Color) (br : Byte) : PulseBuffer := encode (packedOperand c br)

end Sys2Proof.Machine
end

