-- ==== Sys2Proof/Syntax.lean ====
section
/-! DEFINITION. The commands of spec/opcode_table.json, one constructor a row (30_encoding.md rules R55 to R57). -/

namespace Sys2Proof

/-- A command of PENC, with the fields of its argument as the command word carries them. -/
inductive Instr where
  /-- SHOWP (R56): `z` is `CW[31:24]`, accepted at any value and without effect; `pk` is the packed colour `CW[23:0]`. -/
  | showp (z : Byte) (pk : PackedColor)
  /-- SHOWC (R57): brightness, then red, green, blue, in the order of the word's fields from bit 31 down. -/
  | showc (br r g b : Byte)
  deriving DecidableEq, Repr

end Sys2Proof
end

