-- ==== Sys2Proof/Machine/State.lean ====
section
/-! DEFINITION. The state of PENC and of the agents around it, as plain data (10_state.md), and the state right after reset. -/

namespace Sys2Proof.Machine

/-- `FSM`, the sequencing state (10_state.md R13). -/
inductive Fsm where
  /-- No write outstanding; a command can be accepted. -/
  | idle
  /-- One write of `PBUF` is outstanding. -/
  | send
  /-- A write failed; nothing more is done until reset. -/
  | halt
  deriving DecidableEq, Repr

/-- The result of a transport write (43 R105, R106). -/
inductive TxResult where
  | ok
  | fail
  deriving DecidableEq, Repr

/-- An event of the history (10_state.md R22). -/
inductive Event where
  /-- The 9 bytes handed to the transport, as the 72-bit value whose byte 0 is on top. -/
  | txWrite (buf : PulseBuffer)
  /-- The outstanding write returned. -/
  | txDone (r : TxResult)
  /-- The reset event. -/
  | reset
  deriving DecidableEq, Repr

/-- What the LED shows: a colour it received, or something the spec does not fix (43 R112, 60 R139, 70 R155). -/
inductive Led where
  | shows (c : PackedColor)
  | unspecified
  deriving DecidableEq, Repr

/-- Where the Animation Driver's loop stands (44 R124), or that the host software has panicked (60 R140). -/
inductive HostPhase where
  /-- About to advance the brightness and present the next frame's command. -/
  | ready
  /-- Holding the command until accepted, then waiting for the write to complete. -/
  | waiting
  /-- Suspended for 500 ms after the transmit (R126). -/
  | suspended
  /-- Stopped for good by a panic (R140): only a device reset starts it again. -/
  | panicked
  deriving DecidableEq, Repr

/-- The levels of the input pins of TRANSPORT and RESET at one rising edge of `clk` (10_state.md R19, R20). -/
structure EdgePins where
  /-- `rst`. -/
  rst : Bool
  /-- `tx_done`. -/
  txDone : Bool
  /-- `tx_fail`, sampled only with `tx_done`. -/
  txFail : Bool
  deriving DecidableEq, Repr

/-- What the world does next: the lines of a script (30_encoding.md R60), the documented host's own actions (44), and a raw clock
edge at which several pins may be active at once (60 R144). -/
inductive Input where
  /-- HOST presents a command and holds it until accepted (a command line of R60). -/
  | present (cw : CommandWord)
  /-- HOST stops presenting before acceptance (R42, 70 R160). -/
  | withdraw
  /-- The Animation Driver takes its next action (44 R124). -/
  | driver
  /-- The host software panics (60 R140). -/
  | panic
  /-- The heartbeat task wakes: no observable work (44 R131). -/
  | heartbeat
  /-- HOST waits `t` milliseconds: no effect (R60, 70 R163). -/
  | wait (t : Nat)
  /-- TRANSPORT completes the outstanding write ok (43 R105). -/
  | txok
  /-- TRANSPORT completes the outstanding write with failure (43 R106). -/
  | txfail
  /-- The device reset: the block and the host start again (70 R150, R152; R60). -/
  | reset
  /-- One rising edge with these pins and the command port as the host drives it (60 R144). -/
  | edge (p : EdgePins)
  deriving DecidableEq, Repr

/-- The machine's state. -/
structure State where
  /-- `FSM` (10_state.md R13). -/
  fsm : Fsm
  /-- `PBUF` (10_state.md R14). -/
  pbuf : PulseBuffer
  /-- The event history, oldest first (10_state.md R22). -/
  history : List Event
  /-- The command port: `none` is `cmd_valid = 0`; else `cmd_valid = 1` with this word on `cmd_op`, `cmd_arg` (R18, R55). -/
  cmd : Option CommandWord
  /-- What the LED shows (43 R112). -/
  led : Led
  /-- The driver's palette index (44 R120). -/
  idx : Fin 4
  /-- The driver's brightness counter (44 R120). -/
  hbr : Byte
  /-- Where the driver's loop stands (44 R124). -/
  phase : HostPhase
  /-- The inputs still to come, first one next (log entry 5). -/
  schedule : List Input
  /-- The number of the next free draw; every step advances it (log entry 4). -/
  draws : Nat
  deriving DecidableEq, Repr

/-- The faults of 60_exceptions.md R136. No step of this model answers one, which is safe: a failed write and a panic are NEXT
states (`Fsm.halt`, `HostPhase.panicked`), because a reset leads out of both, and a failed initialisation is a launch premise
(log entries 12, 17, 20). The constructors are the spec's labels, used by `faultsOf` (Machine/Flags.lean). -/
inductive Fault where
  /-- Code 1: a transport write failed (R137). Raised by no step: TXFAIL enters `Fsm.halt`. Safe. -/
  | transportFailure
  /-- Code 2: the platform could not initialise the transport. Raised by no step: outside the block (R153, U6). Unsafe: the
  launch premise is taken for granted. -/
  | transportInitFailure
  /-- Code 3: the host software panicked (R140). Raised by no step: it enters `HostPhase.panicked`. Safe. -/
  | panic
  deriving DecidableEq, Repr

/-- Why an instruction has no meaning. -/
inductive Refusal where
  /-- The instruction of this mnemonic has no meaning yet. Raised by exec's refused arms alone, of which none is left. Safe. -/
  | notModelled (mnemonic : String)
  deriving DecidableEq, Repr

/-- The outcome of a step of this machine. -/
abbrev Result := Host.Outcome State Fault Refusal

/-- The machine right after reset (10_state.md R24, 70 R150, 44 R122): nothing outstanding, `PBUF` and the LED unspecified, the host
at its start, and the `Reset` event recorded. Log entries 1, 3, 4, 5, 16, 24, 25. -/
def State.reset : State where
  fsm := .idle
  pbuf := Config.freePbuf 0
  history := [.reset]
  cmd := none
  led := .unspecified
  idx := 0
  hbr := 0
  phase := .ready
  schedule := []
  draws := 1

end Sys2Proof.Machine
end

