-- ==== Sys2Proof/Machine/Flags.lean ====
section
/-! DEFINITION. The output pins and flags, each a function of the state (10_state.md rules R13, R15, R18, R19), and the faults a state
stands in (60_exceptions.md R136). PENC has no condition code and no computation sets a flag (R15, R69, R96). -/

namespace Sys2Proof.Machine

/-- `cmd_ready`: 1 exactly when `FSM = IDLE`. -/
def cmdReady (s : State) : Bool := s.fsm == .idle

/-- `busy`: 1 exactly when `FSM = SEND`. -/
def busy (s : State) : Bool := s.fsm == .send

/-- `halted`: 1 exactly when `FSM = HALT`; sticky until reset. -/
def halted (s : State) : Bool := s.fsm == .halt

/-- `tx_valid`: 1 exactly when `FSM = SEND`. -/
def txValid (s : State) : Bool := s.fsm == .send

/-- `tx_data`: `PBUF` while `tx_valid = 1`, any value otherwise (R19, U5; log entry 2). -/
def txData (s : State) : PulseBuffer := if txValid s then s.pbuf else Config.freeTxData s.draws

/-- The colour of the LED's light: a free draw while the spec leaves it open (60 R139; log entry 3). -/
def ledColour (s : State) : PackedColor :=
  match s.led with
  | .shows c => c
  | .unspecified => Config.freeLed s.draws

/-- The spec's numeric value of `FSM`, visible on no pin (R13). -/
def fsmCode : Fsm → Nat
  | .idle => 0
  | .send => 1
  | .halt => 2

/-- The spec's code of a fault (60 R136). -/
def faultCode : Fault → Nat
  | .transportFailure => 1
  | .transportInitFailure => 2
  | .panic => 3

/-- The faults of R136 the state stands in: `HALT` is the failed write, a panicked host is the panic. -/
def faultsOf (s : State) : List Fault :=
  (if halted s then [.transportFailure] else []) ++ (if s.phase = .panicked then [.panic] else [])

end Sys2Proof.Machine
end

