-- ==== Sys2Proof/Machine/Line.lean ====
section
/-! DEFINITION. The serial line and the LED: what the transport must do with the 9 bytes and what the LED receives (43_commands_and_transport.md
rules R108 to R112). Contract of the platform; the block itself never reads these. -/

namespace Sys2Proof.Machine

/-- The bits of one byte in the order of the line, bit 7 first (R109). -/
def byteOnLine (b : Byte) : List Bool := (List.range 8).map fun j => b.getLsbD (7 - j)

/-- The 72 sub-bits of a write in time order: bytes in index order, back to back (R108, R110). -/
def subBits (buf : PulseBuffer) : List Bool := (bufBytes buf).flatMap byteOnLine

/-- The level of the data line when no frame is on it: low (R110). -/
def idleLevel : Bool := false

/-- The level of the data line around one write, `t` serial clock periods after the write's first sub-bit began: the 72 sub-bits
back to back from 0 to 71, and low before the first and after the last (R110, R111). -/
def levelAt (buf : PulseBuffer) : Int → Bool
  | .ofNat t => (subBits buf).getD t idleLevel
  | .negSucc _ => idleLevel

/-- The data bits that a train of sub-bits carries, in time order: each symbol is high, the bit, low (30_encoding.md R51). A train that
is not made of the two codes carries none (R58). -/
def lineBits : List Bool → Option (List Bool)
  | [] => some []
  | true :: x :: false :: rest => (lineBits rest).map (x :: ·)
  | _ => none

/-- A value from its bits, the most significant first. -/
def ofBitsMsb (l : List Bool) : PackedColor := l.foldl (fun acc x => (acc <<< 1) ||| (if x then 1#24 else 0#24)) 0#24

/-- The colour the LED takes from one whole write: its 24 data bits, `pk[23]` first (R112). -/
def ledReceives (buf : PulseBuffer) : Option PackedColor :=
  match lineBits (subBits buf) with
  | some l => if l.length = 24 then some (ofBitsMsb l) else none
  | none => none

/-- What the LED shows after a write that completed ok (R112); pulses outside the two codes leave it open (U20, log entry 15). -/
def ledAfter (buf : PulseBuffer) : Led :=
  match ledReceives buf with
  | some c => .shows c
  | none => .unspecified

/-- The three sub-bits of a symbol in time order, most significant first (30_encoding.md R50). -/
def symbolBits (s : Symbol) : List Bool := [s.getLsbD 2, s.getLsbD 1, s.getLsbD 0]

/-- High time and low time of the pulse of one data bit, for a sub-bit of `tSub` (R111). -/
def pulseWidths (tSub : Nat) (x : Bool) : Nat × Nat :=
  ((symbolBits (symbol x)).count true * tSub, (symbolBits (symbol x)).count false * tSub)

/-- The time a whole frame takes on the line, for a sub-bit of `tSub` (R111). -/
def frameTime (tSub : Nat) (buf : PulseBuffer) : Nat := (subBits buf).length * tSub

end Sys2Proof.Machine
end

