-- ==== Sys2Proof/Machine/Ops.lean ====
section
/-! DEFINITION. The named operations over the state: one setter a register, the primitives `TxWrite` and `raise TransportFailure`
(00_scope.md R8), acceptance, the two completions, and reset. -/

namespace Sys2Proof.Machine

/-- `FSM <- f`. -/
def setFsm (f : Fsm) (s : State) : State := { s with fsm := f }

/-- `PBUF <- buf`. -/
def setPbuf (buf : PulseBuffer) (s : State) : State := { s with pbuf := buf }

/-- Appends one event to the history (10_state.md R22). -/
def record (e : Event) (s : State) : State := { s with history := s.history ++ [e] }

/-- Drives the command port; `none` is `cmd_valid = 0`. -/
def setCmd (c : Option CommandWord) (s : State) : State := { s with cmd := c }

/-- Sets what the LED shows. -/
def setLed (l : Led) (s : State) : State := { s with led := l }

/-- Sets the host's palette index, brightness and place in its loop. -/
def setHost (idx : Fin 4) (hbr : Byte) (phase : HostPhase) (s : State) : State :=
  { s with idx := idx, hbr := hbr, phase := phase }

/-- Sets the inputs still to come. -/
def setSchedule (l : List Input) (s : State) : State := { s with schedule := l }

/-- Advances the number of the next free draw (log entry 4). -/
def tick (s : State) : State := { s with draws := s.draws + 1 }

/-- `PBUF <- unspecified`: a free draw (10_state.md R14; log entry 1). -/
def dropPbuf (s : State) : State := setPbuf (Config.freePbuf s.draws) s

/-- `TxWrite(buf)` (43 R104): records the event; `tx_valid` and `tx_data` follow from `FSM` and `PBUF`. -/
def txWrite (buf : PulseBuffer) (s : State) : State := record (.txWrite buf) s

/-- The effect of an accepted command that sends `buf` (43 R102, R103). -/
def startWrite (buf : PulseBuffer) (s : State) : State := txWrite buf (setFsm .send (setPbuf buf s))

/-- Acceptance (43 R101): only in IDLE. In SEND and in HALT the command is held: no effect, not queued, not remembered
(log entry 9). -/
def acceptWrite (buf : PulseBuffer) (s : State) : Result :=
  match s.fsm with
  | .idle => .next (startWrite buf s)
  | .send => .next s
  | .halt => .next s

/-- `raise TransportFailure` (60 R137): `FSM <- HALT`, `PBUF` unspecified, nothing saved, no handler. -/
def raiseTransportFailure (s : State) : State := dropPbuf (setFsm .halt s)

/-- TXOK (43 R105): the write returned ok. The LED has received the buffer (R112), which is then discarded. -/
def completeOk (s : State) : State :=
  record (.txDone .ok) (dropPbuf (setFsm .idle (setLed (ledAfter s.pbuf) s)))

/-- TXFAIL (43 R106): the write returned a failure; what reached the LED is open (60 R139). -/
def completeFail (s : State) : State :=
  raiseTransportFailure (record (.txDone .fail) (setLed .unspecified s))

/-- What the LED shows after a reset: open if a write was outstanding (60 R139, 70 R151), else untouched (70 R152). -/
def ledAfterReset (s : State) : Led := if busy s then .unspecified else s.led

/-- RESET of the block (70 R150, R151): the pin `rst`. The host is not touched (R152: a test bench may reset the block alone). -/
def resetBlock (s : State) : State :=
  record .reset (dropPbuf (setFsm .idle (setLed (ledAfterReset s) s)))

/-- The host's own reset (44 R122): its command is withdrawn and its loop starts again (30_encoding.md R60, 70 R152). -/
def resetHost (s : State) : State := setCmd none (setHost 0 0 .ready s)

/-- The device reset (70 R152): block and host. -/
def resetDevice (s : State) : State := resetHost (resetBlock s)

end Sys2Proof.Machine
end

