-- ==== Sys2Proof/Machine/Show.lean ====
section
/-! DEFINITION. The meanings of the two commands (43_commands_and_transport.md rules R101 to R103). -/

namespace Sys2Proof.Machine

/-- SHOWP (R102): encode a given packed colour and write it; `z` has no effect (30_encoding.md R56). -/
def execShowp (_z : Byte) (pk : PackedColor) (s : State) : Result := acceptWrite (encode pk) s

/-- SHOWC (R103): scale, pack, encode and write a logical colour. -/
def execShowc (br r g b : Byte) (s : State) : Result := acceptWrite (frame (colorOperand r g b) br) s

/-- The buffer a command hands to the transport when it is accepted (R102, R103). -/
def sentBy : Instr → PulseBuffer
  | .showp _ pk => encode pk
  | .showc br r g b => frame (colorOperand r g b) br

end Sys2Proof.Machine
end

