-- ==== Sys2Proof/Machine/Dispatch.lean ====
section
/-! DEFINITION. The one match from a command to its meaning. -/

namespace Sys2Proof.Machine

def exec (i : Instr) (s : State) : Host.Outcome State Fault Refusal :=
  match i with
  | .showp z pk => Sys2Proof.Machine.execShowp z pk s
  | .showc br r g b => Sys2Proof.Machine.execShowc br r g b s

end Sys2Proof.Machine
end

