-- ==== Sys2Proof/WellFormed.lean ====
section
/-! DEFINITION. Checks on what a user supplies: a command, the scratch width, the platform's parameters. The check on a script's line
is beside the script (Machine/Script.lean). -/

namespace Sys2Proof

/-- Every command is legal (30_encoding.md R58): its fields have their widths by type, and no value of a field is reserved. -/
def Instr.wf : Instr → Bool
  | .showp _ _ => true
  | .showc _ _ _ _ => true

/-- `W_SCRATCH` is a multiple of 8 and at least 72 (00_scope.md R5); below 72 ENCODE is not defined (42_encode.md R93, U9). -/
def wScratchWf (w : Nat) : Bool := decide (72 ≤ w) && w % 8 == 0

/-- The constraints on the serial side: `1 / F_SPI` within 0.25 to 0.55 microseconds (R5, 70 R162), `T_LATCH` at least 50
microseconds (R5, 70 R157: the spec marks that bound as general knowledge). -/
def Platform.wf (p : Platform) : Bool :=
  decide (250 * p.fSpi ≤ 1000000000) && decide (1000000000 ≤ 550 * p.fSpi) && decide (50 ≤ p.tLatch)

end Sys2Proof
end

