-- ==== Sys2Proof/Decode.lean ====
section
/-! DEFINITION. The command word: its fields (30_encoding.md rules R54 to R57), the decoder, and the encoder. The command port carries
the 33 bits at once (10_state.md R18), so there is no byte order to settle. A decoder needs only `CW[32]` (R55), and every word is
legal (R58); what is refused by name is a number that is no 33-bit word. -/

namespace Sys2Proof

/-- `CW[32]`, the operation select (R55). -/
def opField (cw : CommandWord) : Bool := cw.getLsbD 32

/-- `CW[31:24]`: `z` of SHOWP (R56), `br` of SHOWC (R57). -/
def topField (cw : CommandWord) : Byte := cw.extractLsb' 24 8

/-- `CW[23:0]`: `pk` of SHOWP (R56). -/
def pkField (cw : CommandWord) : PackedColor := cw.extractLsb' 0 24

/-- `CW[23:16]`: `r` of SHOWC (R57). -/
def rField (cw : CommandWord) : Byte := cw.extractLsb' 16 8

/-- `CW[15:8]`: `g` of SHOWC (R57). -/
def gField (cw : CommandWord) : Byte := cw.extractLsb' 8 8

/-- `CW[7:0]`: `b` of SHOWC (R57). -/
def bField (cw : CommandWord) : Byte := cw.extractLsb' 0 8

/-- The command a word stands for: total, since every one of the 2^33 words is legal (R58). -/
def decode (cw : CommandWord) : Instr :=
  if opField cw then .showc (topField cw) (rField cw) (gField cw) (bField cw)
  else .showp (topField cw) (pkField cw)

/-- The word of a command: operation, then the fields from bit 31 down (R56, R57). -/
def encodeWord : Instr → CommandWord
  | .showp z pk => 0#1 ++ z ++ pk
  | .showc br r g b => 1#1 ++ br ++ r ++ g ++ b

/-- Why a number is no command. -/
inductive DecodeError where
  /-- The number has a bit above bit 32, and a command word has none (R55, R59). -/
  | widerThanCommandWord
  deriving DecidableEq, Repr

/-- The decoder on a number of any size (log entry 11). -/
def decodeBits (w : Nat) : Except DecodeError Instr :=
  if w < 2 ^ 33 then .ok (decode (BitVec.ofNat 33 w)) else .error .widerThanCommandWord

/-- The command read from the table's bits. `nbits` says how many of them the table gives; all bits above are zero, so the number
`w` alone says which word it is (log entry 11). -/
def decodeTableWord (_nbits w : Nat) : Option Instr :=
  match decodeBits w with
  | .ok i => some i
  | .error _ => none

end Sys2Proof
end

