-- ==== Sys2Proof/Machine/Driver.lean ====
section
/-! DEFINITION. The documented host, the Animation Driver (44_host_animation_driver.md). It binds the HOST agent, not the block. -/

namespace Sys2Proof.Machine

/-- The palette, in order (R121): black, the green tuple the source labels "Red", white, blue (D19, log entry 18). -/
def palette : Fin 4 → Color
  | 0 => ⟨0, 0, 0⟩
  | 1 => ⟨0, 255, 0⟩
  | 2 => ⟨255, 255, 255⟩
  | 3 => ⟨0, 0, 255⟩

/-- `BR_MOD`: the brightness counter wraps here (R123). -/
def brMod : Nat := 100

/-- ADVANCE (R123): plus 1, and 0 from 100 on. -/
def advance (hbr : Byte) : Byte :=
  if hbr.toNat + 1 ≥ brMod then 0 else BitVec.ofNat 8 (hbr.toNat + 1)

/-- The command of a frame: `SHOWC r, g, b, hbr` with the palette entry's channels (R124). -/
def frameCommand (idx : Fin 4) (hbr : Byte) : Instr :=
  .showc hbr (palette idx).r (palette idx).g (palette idx).b

/-- The host's `(idx, hbr)` when frame `n` after reset is presented: the loop of R124 unrolled. -/
def frameHost : Nat → Fin 4 × Byte
  | 0 => (0, advance 0)
  | n + 1 => ((frameHost n).1 + 1, advance (frameHost n).2)

/-- The driver's next action (R124): present the next frame's command; or find the write completed (`busy = 0`) and suspend; or,
the 500 ms over, go to the next palette entry. While it is held it only polls (60 R143). Log entry 16. -/
def driverAction (s : State) : State :=
  match s.phase with
  | .ready =>
    if s.cmd.isSome then s
    else
      setCmd (some (encodeWord (frameCommand s.idx (advance s.hbr)))) (setHost s.idx (advance s.hbr) .waiting s)
  | .waiting => if s.cmd.isNone && !busy s then setHost s.idx s.hbr .suspended s else s
  | .suspended => setHost (s.idx + 1) s.hbr .ready s
  | .panicked => s

/-- The host software panics (60 R140): it stops presenting commands; the block is not touched. Log entry 17. -/
def hostPanic (s : State) : State := setCmd none (setHost s.idx s.hbr .panicked s)

end Sys2Proof.Machine
end

