-- ==== Sys2Proof/Machine/Edge.lean ====
section
/-! DEFINITION. One rising edge of `clk`, and how the coming inputs are read (60_exceptions.md R144, 30_encoding.md R60). -/

namespace Sys2Proof.Machine

/-- No pin of TRANSPORT or RESET active. -/
def quietEdge : EdgePins where
  rst := false
  txDone := false
  txFail := false

/-- The transport's two answers, as pins (10_state.md R19). -/
def txEdge (fail : Bool) : EdgePins where
  rst := false
  txDone := true
  txFail := fail

/-- The command port at an edge: the word presented is decoded and executed; once accepted it is off the port (the handshake of
10_state.md R18), while it is held it stays (43 R101). -/
def sampleCommand (cw : CommandWord) (s : State) : Result :=
  match exec (decode cw) s with
  | .next t => .next (if cmdReady s then setCmd none t else t)
  | .fault f => .fault f
  | .refused r => .refused r

/-- One rising edge (60 R144): first `rst`; then `tx_done` in SEND; then a presented command. `tx_done` outside SEND is ignored
(10_state.md R19), and so is `tx_fail` without `tx_done` (43 R106). -/
def clockEdge (p : EdgePins) (s : State) : Result :=
  if p.rst then .next (resetBlock s)
  else if p.txDone && busy s then .next (if p.txFail then completeFail s else completeOk s)
  else
    match s.cmd with
    | some cw => sampleCommand cw s
    | none => .next s

/-- One input, its turn come; `s` is the state with that input already taken off the schedule. -/
def runInput (i : Input) (s : State) : Result :=
  match i with
  | .present cw => .next (if s.phase = .panicked then s else setCmd (some cw) s)
  | .withdraw => .next (setCmd none s)
  | .driver => .next (driverAction s)
  | .panic => .next (hostPanic s)
  | .heartbeat => .next s
  | .wait _ => .next s
  | .txok => clockEdge (txEdge false) s
  | .txfail => clockEdge (txEdge true) s
  | .reset => .next (resetDevice s)
  | .edge p => clockEdge p s

/-- A command line whose turn has come while an earlier command is still held is not begun (R60). -/
def mustWait (i : Input) (s : State) : Bool :=
  match i with
  | .present _ => s.cmd.isSome
  | _ => false

/-- A held command is accepted at the first point where `FSM = IDLE`, before the next line (R60). -/
def acceptsFirst (s : State) : Bool := s.cmd.isSome && cmdReady s

/-- What happens next. A raw edge happens as it stands. Before any other line a held command that can be accepted is accepted. With
nothing scheduled, edges go by with quiet pins. -/
def runNext (s : State) : Result :=
  match s.schedule with
  | [] => clockEdge quietEdge s
  | .edge p :: rest => clockEdge p (setSchedule rest s)
  | i :: rest =>
    if acceptsFirst s then clockEdge quietEdge s
    else if mustWait i s then .next s
    else runInput i (setSchedule rest s)

/-- Advances the draw counter after a step (log entry 4). -/
def ticked : Result → Result
  | .next t => .next (tick t)
  | .fault f => .fault f
  | .refused r => .refused r

/-- Puts a word on the command port and makes the very next step an edge with quiet pins (log entry 6). -/
def presentNow (cw : CommandWord) (s : State) : State :=
  setCmd (some cw) (setSchedule (.edge quietEdge :: s.schedule) s)

end Sys2Proof.Machine
end

