-- ==== Sys2Proof/Machine/Step.lean ====
section
/-! DEFINITION. One step of the machine, and how a command word is placed to be the next one run. -/

namespace Sys2Proof.Machine

/-- One step: what the schedule says happens next (Machine/Edge.lean), then the draw counter advances. -/
def step (s : State) : Host.Outcome State Fault Refusal := ticked (runNext s)

/-- `s` with the command word `w` on the command port, so that the next step runs it. PENC has no program counter: a command
arrives whole on its port (10_state.md R12; log entry 6). A number that is no command word places nothing. -/
def State.withFetchWord (s : State) (_nbits w : Nat) : State :=
  if w < 2 ^ 33 then presentNow (BitVec.ofNat 33 w) s else s

end Sys2Proof.Machine
end

