-- ==== Sys2Proof/Machine/Script.lean ====
section
/-! DEFINITION. The textual scripts of 30_encoding.md R60: command lines, pseudo-commands and event lines, and the inputs they mean. -/

namespace Sys2Proof.Machine

/-- One line of a script (R60). Numbers are as written, so a line can be ill-formed. -/
inductive Line where
  | showp (pk : Nat)
  | showc (r g b br : Nat)
  | showrgb (r g b : Nat)
  | off
  | txok
  | txfail
  | reset
  | wait (t : Nat)
  deriving DecidableEq, Repr

/-- The ranges R60 gives the operands. -/
def lineWf : Line → Bool
  | .showp pk => decide (pk ≤ 0xFFFFFF)
  | .showc r g b br => decide (r ≤ 255) && decide (g ≤ 255) && decide (b ≤ 255) && decide (br ≤ 255)
  | .showrgb r g b => decide (r ≤ 255) && decide (g ≤ 255) && decide (b ≤ 255)
  | .off => true
  | .txok => true
  | .txfail => true
  | .reset => true
  | .wait _ => true

/-- The word of SHOWC as R60 writes it. -/
def showcNumber (r g b br : Nat) : Nat := (1 <<< 32) ||| (br <<< 24) ||| (r <<< 16) ||| (g <<< 8) ||| b

/-- The input a line stands for: a command line has the host present its word, the pseudo-commands expanded; an event line is its
event (R60). -/
def lineInput : Line → Input
  | .showp pk => .present (BitVec.ofNat 33 pk)
  | .showc r g b br => .present (BitVec.ofNat 33 (showcNumber r g b br))
  | .showrgb r g b => .present (BitVec.ofNat 33 (showcNumber r g b 255))
  | .off => .present (BitVec.ofNat 33 0)
  | .txok => .txok
  | .txfail => .txfail
  | .reset => .reset
  | .wait t => .wait t

/-- The word an input presents, if it presents one. -/
def inputWord : Input → Option CommandWord
  | .present cw => some cw
  | _ => none

/-- The command word of a line, none for an event line (R60). -/
def lineWord (l : Line) : Option CommandWord := inputWord (lineInput l)

/-- A script ahead of what is already scheduled. -/
def withScript (ls : List Line) (s : State) : State := { s with schedule := ls.map lineInput ++ s.schedule }

end Sys2Proof.Machine
end

