-- ==== Sys2Proof/Machine/Gap.lean ====
section
/-! DEFINITION. The inter-frame gap (70_reset_and_hazards.md R157, 44_host_animation_driver.md R129), an obligation of the host that the
block cannot see: a monitor beside the machine's own steps. It counts how long the data line has been low since the last frame, in
microseconds, `none` while no frame has been on the line. -/

namespace Sys2Proof.Machine

/-- `T_FRAME`: the driver's suspension after each transmit, 500 ms (44 R126). -/
def tFrame : Nat := 500000

/-- The time the next step takes: what a WAIT line says, once its turn has come, and the driver's suspension. Every other step takes
none, the model having no time (70 R163; log entries 19, 27). -/
def stepTime (s : State) : Nat :=
  if acceptsFirst s then 0
  else
    match s.schedule with
    | .wait t :: _ => 1000 * t
    | .driver :: _ => if s.phase = .suspended then tFrame else 0
    | _ => 0

/-- The low time after a step from `s` to `t`. While a write is outstanding a wait does not count. From when the line is low again the
spec does not say: the model starts at the step that ends the write, be it TXOK, TXFAIL or a RESET that abandons it (DESIGN CHOICE,
log entry 27). A RESET or a `tx_done` with no write outstanding changes nothing. -/
def lowAfter (s t : State) (low : Option Nat) : Option Nat :=
  if busy s then (if busy t then low else some 0) else low.map fun u => u + stepTime s

/-- Whether a step that starts a frame finds the line low for at least `tLatch`; the first frame needs no gap before it (R157: the
gap is between two frames). A held command starts its frame when it is accepted. -/
def gapAtStart (tLatch : Nat) (s t : State) (low : Option Nat) : Bool :=
  if !busy s && busy t then
    match low with
    | none => true
    | some u => decide (tLatch ≤ u)
  else true

/-- The gap kept before every frame that starts in the next `n` steps (R157), for a latch time of `tLatch` microseconds. When the line
counts as low is the model's choice where the spec is silent (log entry 27). -/
def gapsKept (tLatch : Nat) : Nat → Option Nat → State → Bool
  | 0, _, _ => true
  | n + 1, low, s =>
    match step s with
    | .next t => gapAtStart tLatch s t low && gapsKept tLatch n (lowAfter s t low) t
    | .fault _ => true
    | .refused _ => true

/-- The gap kept by a script run from reset: every line takes its own step and at most one acceptance before it. -/
def scriptKeepsGaps (tLatch : Nat) (ls : List Line) : Bool :=
  gapsKept tLatch (2 * ls.length + 1) none (withScript ls State.reset)

end Sys2Proof.Machine
end

