-- ==== Sys2Proof/Machine/RunEnd.lean ====
section
/-! DEFINITION. The end of a run (70_reset_and_hazards.md R165), read off the event history, which is the observation of the block
(10_state.md R22, 92 D30). -/

namespace Sys2Proof.Machine

/-- How a finite run stands. -/
inductive RunEnd where
  /-- (a) Every command of the chosen list was accepted, in order, and every write completed ok. -/
  | success
  /-- (b) `FSM = HALT`: never a success. -/
  | faulted
  /-- Neither: a write is pending, or not every command of the list has been accepted and its write completed ok. -/
  | notEnded
  deriving DecidableEq, Repr

/-- The events of a run in which exactly these commands were accepted, in this order, and every write completed ok (20_memory.md
R39). -/
def okEvents (cmds : List CommandWord) : List Event :=
  cmds.flatMap fun cw => [.txWrite (sentBy (decode cw)), .txDone .ok]

/-- The events of a history other than `Reset`. -/
def withoutResets (h : List Event) : List Event := h.filter fun e => e != .reset

/-- The end of a run for a chosen list of commands (R165). A failed write, a write that a reset abandoned and a command that was
withdrawn each leave the history short of `okEvents`, whatever comes after. That a `Reset` taken with no write outstanding does not
spoil a run is the model's reading (log entry 28). -/
def runEnd (cmds : List CommandWord) (s : State) : RunEnd :=
  match s.fsm with
  | .halt => .faulted
  | .send => .notEnded
  | .idle => if withoutResets s.history = okEvents cmds then .success else .notEnded

end Sys2Proof.Machine
end

