-- ==== Sys2Proof/Safety.lean ====
section
/-! DEFINITION. What counts as a safe run: the protocol of the event history (10_state.md R25, 20_memory.md R39), the invariants a step
keeps, and the inputs that can end a write or reset the block. The end of a run (70 R165) is in Machine/RunEnd.lean, the inter-frame gap
(70 R157) in Machine/Gap.lean. -/

namespace Sys2Proof.Machine

/-- What an event history says about the block: at rest, with a buffer outstanding, or failed. -/
inductive Protocol where
  | idle
  | send (buf : PulseBuffer)
  | halt
  deriving DecidableEq, Repr

/-- One event of the protocol; none where the event may not happen (R13, R39). -/
def protocolStep : Protocol → Event → Option Protocol
  | .idle, .txWrite buf => some (.send buf)
  | .send _, .txDone .ok => some .idle
  | .send _, .txDone .fail => some .halt
  | _, .reset => some .idle
  | _, _ => none

/-- The protocol along a history, oldest event first. -/
def protocolFrom (p : Protocol) : List Event → Option Protocol
  | [] => some p
  | e :: h =>
    match protocolStep p e with
    | some q => protocolFrom q h
    | none => none

/-- What the state itself says about the block. -/
def protocolNow (s : State) : Protocol :=
  match s.fsm with
  | .idle => .idle
  | .send => .send s.pbuf
  | .halt => .halt

/-- The LED and the outstanding buffer along a history (10_state.md R22, 43 R112, 60 R139, 70 R152). -/
def lightStep (x : Led × Option PulseBuffer) : Event → Led × Option PulseBuffer
  | .txWrite buf => (x.1, some buf)
  | .txDone .ok => ((match x.2 with | some buf => ledAfter buf | none => x.1), none)
  | .txDone .fail => (.unspecified, none)
  | .reset => ((match x.2 with | some _ => .unspecified | none => x.1), none)

/-- What the LED shows after a history that starts with the LED open (70 R155). -/
def lightOf (h : List Event) : Led := (h.foldl lightStep (.unspecified, none)).1

/-- The host's counter is in range and meets its palette entry: `idx = (hbr - 1) mod 4` for the frame in hand (44 R123, R125). -/
def hostPairs (s : State) : Prop :=
  s.hbr.toNat < brMod ∧
    (s.phase = .ready → s.hbr.toNat % 4 = s.idx.val) ∧
    (s.phase = .waiting ∨ s.phase = .suspended → s.hbr.toNat % 4 = (s.idx.val + 1) % 4)

/-- The invariant of the block (10_state.md R25): the history is a legal one and ends where `FSM` and `PBUF` stand; an outstanding
buffer is an encoding; the LED shows what the history says. -/
def BlockInv (s : State) : Prop :=
  protocolFrom .idle s.history = some (protocolNow s) ∧
    (s.fsm = .send → ∃ pk, s.pbuf = encode pk) ∧
    s.led = lightOf s.history

/-- The events since the last `Reset` (R25 (c), (d)). -/
def sinceReset (h : List Event) : List Event := (h.reverse.takeWhile fun e => e != .reset).reverse

/-- A `TxWrite` event. -/
def isTxWrite : Event → Bool
  | .txWrite _ => true
  | _ => false

/-- A `TxDone` event, ok or fail. -/
def isTxDone : Event → Bool
  | .txDone _ => true
  | _ => false

/-- An input at which the outstanding write can end: the transport answers or the block is reset. -/
def mayEndWrite : Input → Bool
  | .txok => true
  | .txfail => true
  | .reset => true
  | .edge p => p.rst || p.txDone
  | _ => false

/-- An input that resets the block. -/
def resetsBlock : Input → Bool
  | .reset => true
  | .edge p => p.rst
  | _ => false

end Sys2Proof.Machine
end

