-- ==== Sys2Proof/Certificates/Slice0/Obligations.lean ====
section
/-! DEFINITION. The statements for the provers. Each docstring names the rule of spec/ it comes from. -/

open Sys2Proof Sys2Proof.Machine

/-! ### Encoding -/

/-- 30_encoding.md R55 to R57: decoding the word of any command gives the command back, every field at every value. -/
def Obligations.DecodeOfEncodeIsIdentity : Prop :=
  ∀ i : Instr, i.wf = true → decode (encodeWord i) = i

/-- 30_encoding.md R58: every one of the 2^33 words is a legal command. That the command also keeps every bit of the word, so that it
encodes back to it, is the model's choice: SHOWP's constructor carries the field `CW[31:24]` that R58 calls ignored (log entry 10). -/
def Obligations.EveryWordIsACommand : Prop :=
  ∀ cw : CommandWord, (decode cw).wf = true ∧ encodeWord (decode cw) = cw

/-- 30_encoding.md R55 to R57: bit 32 selects the operation, and the fields are the bits the tables give. -/
def Obligations.CommandWordFieldsAsTabled : Prop :=
  ∀ cw : CommandWord,
    (cw.getLsbD 32 = false → decode cw = .showp (cw.extractLsb' 24 8) (cw.extractLsb' 0 24)) ∧
    (cw.getLsbD 32 = true →
      decode cw = .showc (cw.extractLsb' 24 8) (cw.extractLsb' 16 8) (cw.extractLsb' 8 8) (cw.extractLsb' 0 8))

/-- 95_test_vectors.md part 2.4: words written out from the encoding decode to the commands they stand for. -/
def Obligations.SampleWordsDecode : Prop :=
  decode 0b0_00000000_00000000_11111111_00000000#33 = .showp 0 0x00FF00 ∧
  decode 0b0_10100101_00000000_11111111_00000000#33 = .showp 0xA5 0x00FF00 ∧
  decode 0b1_00110010_00000000_11111111_00000000#33 = .showc 50 0 255 0 ∧
  decode 0b1_11001000_00001010_00010100_00011110#33 = .showc 200 10 20 30 ∧
  decodeTableWord 40 0x1FF123456 = some (.showc 255 0x12 0x34 0x56)

/-- The model's choice (log entry 11): a number is decoded exactly when it is a 33-bit word; any other is refused by name. -/
def Obligations.OnlyCommandWordsDecode : Prop :=
  ∀ n w : Nat,
    (w < 2 ^ 33 → decodeTableWord n w = some (decode (BitVec.ofNat 33 w))) ∧
    (2 ^ 33 ≤ w → decodeBits w = .error .widerThanCommandWord ∧ decodeTableWord n w = none)

/-- 30_encoding.md R60: the number a well-formed script line is assembled to is the word of the command it names, the
pseudo-commands included; and the inputs a script puts on the schedule are that word presented, or the event the line names. -/
def Obligations.ScriptLinesAssemble : Prop :=
  (∀ pk : Nat, lineWf (.showp pk) = true →
    lineWord (.showp pk) = some (encodeWord (.showp 0 (BitVec.ofNat 24 pk)))) ∧
  (∀ r g b br : Nat, lineWf (.showc r g b br) = true →
    lineWord (.showc r g b br) =
      some (encodeWord (.showc (BitVec.ofNat 8 br) (BitVec.ofNat 8 r) (BitVec.ofNat 8 g) (BitVec.ofNat 8 b)))) ∧
  (∀ r g b : Nat, lineWf (.showrgb r g b) = true → lineWord (.showrgb r g b) = lineWord (.showc r g b 255)) ∧
  lineWord .off = lineWord (.showp 0) ∧
  (∀ (l : Line) (cw : CommandWord), lineWord l = some cw → lineInput l = .present cw) ∧
  (lineInput .txok = .txok ∧ lineInput .txfail = .txfail ∧ lineInput .reset = .reset ∧ ∀ n, lineInput (.wait n) = .wait n) ∧
  (∀ (ls : List Line) (s : State), withScript ls s = { s with schedule := ls.map lineInput ++ s.schedule })

/-! ### SCALE -/

/-- 40_scale.md R66: each channel is `floor((c * br) / 255)`, the three independently and by the same brightness. -/
def Obligations.ScaleFloorsEachChannel : Prop :=
  (∀ (c : Color) (br : Byte),
    (scale c br).sr.toNat = c.r.toNat * br.toNat / 255 ∧
    (scale c br).sg.toNat = c.g.toNat * br.toNat / 255 ∧
    (scale c br).sb.toNat = c.b.toNat * br.toNat / 255) ∧
  scale ⟨0, 255, 0⟩ 50 = ⟨0, 50, 0⟩

/-- 40_scale.md R68 (a) to (e), (g) to (i): the laws of one channel. -/
def Obligations.ScaleChannelLaws : Prop :=
  ∀ c br : Byte,
    c.toNat * br.toNat / 255 ≤ 255 ∧
    (scaleChannel c br).toNat ≤ c.toNat ∧
    (scaleChannel c br).toNat ≤ br.toNat ∧
    scaleChannel c 0 = 0 ∧ scaleChannel 0 br = 0 ∧
    scaleChannel c 255 = c ∧ scaleChannel 255 br = br ∧
    (1 ≤ (scaleChannel c br).toNat ↔ 255 ≤ c.toNat * br.toNat) ∧
    scaleChannel c br = scaleChannel br c ∧
    (br.toNat ≤ 99 → (scaleChannel c br).toNat ≤ 99)

/-- 40_scale.md R68 (f): the result does not decrease in either argument. -/
def Obligations.ScaleIsMonotone : Prop :=
  ∀ c c' br br' : Byte, c.toNat ≤ c'.toNat → br.toNat ≤ br'.toNat →
    (scaleChannel c br).toNat ≤ (scaleChannel c' br').toNat

/-- 40_scale.md R70 (b), (c), as the spec tabulates them: the 64-bit floating-point reading gives one less on the twelve pairs and
the same everywhere else, and in the driver's range there is no such pair. The reading is the table itself (log entry 13). -/
def Obligations.FloatReadingDiffersOnTwelvePairs : Prop :=
  (∀ c br : Byte, (c.toNat, br.toNat) ∈ binary64Pairs →
    (scaleChannelBinary64 c br).toNat + 1 = (scaleChannel c br).toNat ∧ c.toNat * br.toNat % 255 = 0) ∧
  (∀ c br : Byte, (c.toNat, br.toNat) ∉ binary64Pairs → scaleChannelBinary64 c br = scaleChannel c br) ∧
  (∀ c br : Byte, br.toNat ≤ 99 → scaleChannelBinary64 c br = scaleChannel c br)

/-! ### PACK -/

/-- 41_pack.md R76: the packed value is green, red, blue from the top, and its fields read back as the channels. -/
def Obligations.PackConcatenatesGreenRedBlue : Prop :=
  (∀ c : ScaledColor,
    pack c = (c.sg.setWidth 24 <<< 16) ||| (c.sr.setWidth 24 <<< 8) ||| c.sb.setWidth 24 ∧
    pack c = c.sg ++ c.sr ++ c.sb ∧
    (pack c).extractLsb' 16 8 = c.sg ∧ (pack c).extractLsb' 8 8 = c.sr ∧ (pack c).extractLsb' 0 8 = c.sb) ∧
  pack ⟨255, 0, 0⟩ = 0x00FF00

/-- 41_pack.md R78 (b): PACK is a bijection, with the inverse the rule gives. -/
def Obligations.PackIsABijection : Prop :=
  (∀ c : ScaledColor, unpack (pack c) = c) ∧ (∀ pk : PackedColor, pack (unpack pk) = pk)

/-- 41_pack.md R78 (d) to (f), (h): single channels, no carry between fields, and not the logical order. -/
def Obligations.PackPlacesSingleChannels : Prop :=
  (∀ x : Byte, pack ⟨x, 0, 0⟩ = x.setWidth 24 <<< 8 ∧ pack ⟨0, x, 0⟩ = x.setWidth 24 <<< 16 ∧
    pack ⟨0, 0, x⟩ = x.setWidth 24) ∧
  (∀ c : ScaledColor, (pack c).toNat = c.sg.toNat * 65536 + c.sr.toNat * 256 + c.sb.toNat) ∧
  (∀ r g b : Byte, r ≠ g → pack ⟨r, g, b⟩ ≠ r ++ g ++ b)

/-! ### ENCODE -/

/-- 42_encode.md R86: the symbol of a bit. -/
def Obligations.SymbolCodes : Prop :=
  symbol true = 0b110#3 ∧ symbol false = 0b100#3 ∧
  ∀ x : Bool, symbol x = 1#1 ++ BitVec.ofBool x ++ 0#1 ∧ (symbol x).toNat = 4 + 2 * x.toNat

/-- 42_encode.md R88: the symbol of bit `i` stands at offset `3 * i` of the accumulator, at every allowed width. -/
def Obligations.ScratchPlacesEverySymbol : Prop :=
  ∀ (w : Nat) (pk : PackedColor), wScratchWf w = true → ∀ i, i < 24 →
    (scratch w pk).extractLsb' (3 * i) 3 = symbol (pk.getLsbD i) ∧
    (scratch w pk).getLsbD (3 * i + 2) = true ∧
    (scratch w pk).getLsbD (3 * i + 1) = pk.getLsbD i ∧
    (scratch w pk).getLsbD (3 * i) = false

/-- 42_encode.md R89: nothing is written above bit 71, and bit 71 is always 1. -/
def Obligations.ScratchPadBitsAreZero : Prop :=
  ∀ (w : Nat) (pk : PackedColor), wScratchWf w = true →
    (∀ j, 72 ≤ j → (scratch w pk).getLsbD j = false) ∧
    2 ^ 71 ≤ (scratch w pk).toNat ∧ (scratch w pk).toNat < 2 ^ 72

/-- 42_encode.md R87: the order in which the 24 positions are visited does not matter. -/
def Obligations.ScratchOrderIsIrrelevant : Prop :=
  ∀ (w : Nat) (pk : PackedColor) (l : List Nat), l.Perm (List.range 24) → scratchOver w pk l = scratch w pk

/-- 42_encode.md R91: TRIM keeps the trailing 9 bytes, the low 72 bits, and on a scratch value discards only zeros. -/
def Obligations.TrimKeepsTheTrailingNineBytes : Prop :=
  (∀ (w : Nat) (s : BitVec w), wScratchWf w = true →
    (trim s).length = 9 ∧ (∀ k, k < 9 → (trim s)[k]? = some (s.extractLsb' (64 - 8 * k) 8)) ∧
    bufOfBytes (trim s) = s.setWidth 72) ∧
  (∀ (w : Nat) (pk : PackedColor), wScratchWf w = true →
    ∀ b ∈ (bytesBE (w / 8) (scratch w pk)).take (w / 8 - 9), b = 0) ∧
  trim 0x00000000000000924924924924924924#128 = [0x92, 0x49, 0x24, 0x92, 0x49, 0x24, 0x92, 0x49, 0x24]

/-- 42_encode.md R90: ENCODE bit by bit and as a number. -/
def Obligations.EncodeClosedForm : Prop :=
  ∀ pk : PackedColor,
    encode pk = bufOfBytes (trim (scratch 128 pk)) ∧
    (∀ i, i < 24 → (encode pk).getLsbD (3 * i + 2) = true ∧ (encode pk).getLsbD (3 * i + 1) = pk.getLsbD i ∧
      (encode pk).getLsbD (3 * i) = false) ∧
    (encode pk).toNat =
      0x924924924924924924 + ((List.range 24).map fun i => (pk.getLsbD i).toNat <<< (3 * i + 1)).sum

/-- 42_encode.md R92: the byte-wise form gives the same 9 bytes. -/
def Obligations.BytewiseFormEqualsEncode : Prop :=
  (∀ pk : PackedColor, bufBytes (encode pk) = encodeBytewise pk) ∧
  expandByte 0x00 = [0x92, 0x49, 0x24] ∧ expandByte 0xFF = [0xDB, 0x6D, 0xB6]

/-- 42_encode.md R93: every allowed accumulator width gives the same buffer. -/
def Obligations.EncodeIndependentOfScratchWidth : Prop :=
  ∀ (w : Nat) (pk : PackedColor), wScratchWf w = true → encodeVia w pk = encode pk

/-- 42_encode.md R94 (b): different colours give different buffers. -/
def Obligations.EncodeIsInjective : Prop :=
  ∀ a b : PackedColor, a ≠ b → encode a ≠ encode b

/-- 42_encode.md R94 (c): which of the 2^72 buffers occur. -/
def Obligations.EncodeImageIsTheTwoCodes : Prop :=
  ∀ buf : PulseBuffer,
    (∃ pk, encode pk = buf) ↔ ∀ i, i < 24 → buf.getLsbD (3 * i + 2) = true ∧ buf.getLsbD (3 * i) = false

/-- 42_encode.md R94 (g): ENCODE is affine over bits, so flipping an input bit flips one output bit. -/
def Obligations.EncodeIsAffine : Prop :=
  (∀ a b : PackedColor, encode a ^^^ encode b ^^^ encode 0 = encode (a ^^^ b)) ∧
  (∀ (a : PackedColor) (i : Nat), i < 24 → encode (a ^^^ (1#24 <<< i)) = encode a ^^^ (1#72 <<< (3 * i + 1)))

/-- 42_encode.md R94 (h), (i): the ends of the stream and the number of one-bits. -/
def Obligations.EncodeEndsAndPopulation : Prop :=
  ∀ pk : PackedColor,
    (bufByte (encode pk) 0).getLsbD 7 = true ∧ (bufByte (encode pk) 8).getLsbD 0 = false ∧
    (List.range 72).countP (fun j => (encode pk).getLsbD j) = 24 + (List.range 24).countP (fun i => pk.getLsbD i)

/-! ### The buffer, the line and the LED -/

/-- 20_memory.md R32: the buffer is its 9 bytes, byte 0 most significant. -/
def Obligations.BufferIsBigEndian : Prop :=
  ∀ buf : PulseBuffer,
    (bufBytes buf).length = 9 ∧
    (∀ k, k < 9 → (bufBytes buf)[k]? = some (buf.extractLsb' (64 - 8 * k) 8)) ∧
    bufOfBytes (bufBytes buf) = buf

/-- 20_memory.md R33 with 43 R108, R109: the line carries stream positions 0 to 71 in order, position `p` being bit
`7 - (p mod 8)` of byte `p / 8`, which is bit `71 - p` of the buffer; and (R110) they stand back to back, with the line low before
the first and after the last. -/
def Obligations.LineCarriesStreamPositions : Prop :=
  ∀ buf : PulseBuffer,
    (subBits buf).length = 72 ∧
    (∀ p : Nat, p < 72 → (subBits buf)[p]? = some (buf.getLsbD (71 - p)) ∧
      (bufByte buf (p / 8)).getLsbD (7 - p % 8) = buf.getLsbD (71 - p) ∧
      levelAt buf (p : Int) = buf.getLsbD (71 - p)) ∧
    (∀ t : Int, t < 0 ∨ 72 ≤ t → levelAt buf t = false)

/-- 43 R112: the LED receives the 24 data bits `pk[23]` down to `pk[0]`, so it takes the packed colour. -/
def Obligations.LedReceivesThePackedColour : Prop :=
  ∀ pk : PackedColor,
    lineBits (subBits (encode pk)) = some ((List.range 24).map fun k => pk.getLsbD (23 - k)) ∧
    ledReceives (encode pk) = some pk ∧ ledAfter (encode pk) = .shows pk

/-- 43 R111: the pulse of a 1 is two sub-bits high and one low, of a 0 one high and two low; a frame is 72 sub-bits long. -/
def Obligations.PulseWidthsOfTheTwoCodes : Prop :=
  ∀ tSub : Nat,
    pulseWidths tSub true = (2 * tSub, tSub) ∧ pulseWidths tSub false = (tSub, 2 * tSub) ∧
    ∀ buf : PulseBuffer, frameTime tSub buf = 72 * tSub

/-! ### The commands -/

/-- 43 R102: SHOWP in IDLE answers the state with `PBUF = ENCODE(pk)`, `FSM = SEND` and one `TxWrite` more, and nothing else
changed; `z` has no effect. -/
def Obligations.ShowpStartsTheWrite : Prop :=
  ∀ (z z' : Byte) (pk : PackedColor) (s : State), s.fsm = .idle →
    exec (.showp z pk) s =
      .next { s with fsm := .send, pbuf := encode pk, history := s.history ++ [.txWrite (encode pk)] } ∧
    exec (.showp z' pk) s = exec (.showp z pk) s ∧
    (∀ t, exec (.showp z pk) s = .next t → busy t = true ∧ cmdReady t = false ∧ txValid t = true ∧ txData t = encode pk)

/-- 43 R103: SHOWC in IDLE answers the state with `PBUF = ENCODE(PACK(SCALE((r,g,b), br)))`, `FSM = SEND` and one `TxWrite` more, and
nothing else changed; it is SHOWP of the packed colour. -/
def Obligations.ShowcStartsTheWrite : Prop :=
  ∀ (br r g b : Byte) (s : State), s.fsm = .idle →
    exec (.showc br r g b) s =
      .next { s with fsm := .send, pbuf := encode (pack (scale ⟨r, g, b⟩ br)),
                     history := s.history ++ [.txWrite (encode (pack (scale ⟨r, g, b⟩ br)))] } ∧
    (∀ z, exec (.showc br r g b) s = exec (.showp z (pack (scale ⟨r, g, b⟩ br))) s) ∧
    exec (.showc 0 r g b) s = exec (.showp 0 0) s ∧
    exec (.showc 255 r g b) s = exec (.showp 0 (g ++ r ++ b)) s ∧
    (∀ t, exec (.showc br r g b) s = .next t → busy t = true ∧ cmdReady t = false ∧ txValid t = true)

/-- 43 R101, 10_state.md R18: outside IDLE a command is neither executed, queued nor remembered. This says where the two commands
wait. That the wait is a next state with nothing changed, where 60 R146 and 93 U17 speak of a hold or of stuck, is read by inference
(log entry 9). -/
def Obligations.CommandsAreHeldOutsideIdle : Prop :=
  ∀ (i : Instr) (s : State), s.fsm ≠ .idle → exec i s = .next s

/-- The frame of SHOWP and SHOWC (43 R102, R103): `FSM`, `PBUF` and one event of the history aside, nothing changes, and `PBUF`
changes only together with them. -/
def Obligations.CommandFrame : Prop :=
  ∀ (i : Instr) (s t : State), exec i s = .next t →
    t.cmd = s.cmd ∧ t.led = s.led ∧ t.idx = s.idx ∧ t.hbr = s.hbr ∧ t.phase = s.phase ∧ t.schedule = s.schedule ∧
    t.draws = s.draws ∧
    ((t.fsm = s.fsm ∧ t.pbuf = s.pbuf ∧ t.history = s.history ∧ s.fsm ≠ .idle) ∨
      (s.fsm = .idle ∧ t.fsm = .send ∧ t.history = s.history ++ [.txWrite t.pbuf]))

/-- 43 R107: FRAME is the composition, and it is not injective: at brightness 0 every colour gives ENCODE(0). -/
def Obligations.FrameComposesAndLosesColour : Prop :=
  (∀ (c : Color) (br : Byte), frame c br = encode (pack (scale c br))) ∧
  (∀ c : Color, frame c 0 = encode 0) ∧
  ∃ c c' : Color, ∃ br : Byte, c ≠ c' ∧ frame c br = frame c' br

/-! ### The step -/

/-- 43 R101 with 30_encoding.md R60: with a command presented in IDLE, the step is exec of the decoded command, after which the
command is off the port and the draw counter has advanced. First with a line or nothing next on the schedule, then with a raw edge
without reset, then from `withFetchWord`; outside IDLE, with nothing scheduled, the command stays on the port. How a command comes
to the port and in which order lines are read are the model's (log entries 4 to 7, 9). -/
def Obligations.StepRunsThePresentedCommand : Prop :=
  (∀ (s : State) (cw : CommandWord), s.cmd = some cw → s.fsm = .idle → (∀ p rest, s.schedule ≠ .edge p :: rest) →
    ∃ t, exec (decode cw) s = .next t ∧ step s = .next { t with cmd := none, draws := t.draws + 1 }) ∧
  (∀ (s : State) (cw : CommandWord) (p : EdgePins) (rest : List Input),
    s.cmd = some cw → s.fsm = .idle → s.schedule = .edge p :: rest → p.rst = false →
    ∃ t, exec (decode cw) { s with schedule := rest } = .next t ∧
      step s = .next { t with cmd := none, draws := t.draws + 1 }) ∧
  (∀ (s : State) (n w : Nat), s.fsm = .idle → w < 2 ^ 33 →
    ∃ i t, decodeTableWord n w = some i ∧ exec i { s with cmd := some (BitVec.ofNat 33 w) } = .next t ∧
      step (s.withFetchWord n w) = .next { t with cmd := none, draws := t.draws + 1 }) ∧
  (∀ (s : State) (cw : CommandWord), s.cmd = some cw → s.fsm ≠ .idle → s.schedule = [] →
    exec (decode cw) s = .next s ∧ step s = .next { s with draws := s.draws + 1 })

/-- 43 R105: the write returns ok. `PBUF` becomes some value nothing is said of; the LED has received the buffer (R112). Outside
SEND the answer is ignored. The free value and the LED's change at the completion are the model's choices (log entries 1, 14, 15). -/
def Obligations.TxokCompletesTheWrite : Prop :=
  (∀ (s : State) (rest : List Input), s.fsm = .send → s.schedule = .txok :: rest →
    ∃ v, step s = .next { s with fsm := .idle, pbuf := v, led := ledAfter s.pbuf, history := s.history ++ [.txDone .ok],
                                 schedule := rest, draws := s.draws + 1 }) ∧
  (∀ s t : State, s.fsm = .send → (∃ rest, s.schedule = .txok :: rest) → step s = .next t →
    busy t = false ∧ cmdReady t = true ∧ txValid t = false) ∧
  (∀ (s : State) (rest : List Input), s.fsm = .halt ∨ (s.fsm = .idle ∧ s.cmd = none) → s.schedule = .txok :: rest →
    step s = .next { s with schedule := rest, draws := s.draws + 1 })

/-- 43 R106 with 60 R137, R139: the write returns a failure. `FSM` becomes HALT, `PBUF` some value nothing is said of, the LED is left
open; `tx_fail` without `tx_done` is ignored, and so is a TXFAIL line outside SEND (10_state.md R19). The free value, the open LED, the
next state and the order in which lines are read are the model's choices (log entries 1, 3, 12, 7). -/
def Obligations.TxfailEntersHalt : Prop :=
  (∀ (s : State) (rest : List Input), s.fsm = .send → s.schedule = .txfail :: rest →
    ∃ v, step s = .next { s with fsm := .halt, pbuf := v, led := .unspecified, history := s.history ++ [.txDone .fail],
                                 schedule := rest, draws := s.draws + 1 }) ∧
  (∀ s t : State, s.fsm = .send → (∃ rest, s.schedule = .txfail :: rest) → step s = .next t →
    halted t = true ∧ busy t = false ∧ cmdReady t = false ∧ txValid t = false ∧ .transportFailure ∈ faultsOf t) ∧
  (∀ s : State, clockEdge { rst := false, txDone := false, txFail := true } s = clockEdge quietEdge s) ∧
  (∀ (s : State) (rest : List Input), s.fsm = .halt ∨ (s.fsm = .idle ∧ s.cmd = none) → s.schedule = .txfail :: rest →
    step s = .next { s with schedule := rest, draws := s.draws + 1 })

/-- 70 R150 to R152: the reset pin is heard in every state, whatever else is active; it touches only `FSM`, `PBUF`, the history and,
if a write was outstanding, the LED. The free value, the open LED and the untouched host are the model's choices (log entries 1, 3,
8). -/
def Obligations.ResetPinFromEveryState : Prop :=
  (∀ (s : State) (p : EdgePins) (rest : List Input), p.rst = true → s.schedule = .edge p :: rest →
    ∃ v, step s = .next { s with fsm := .idle, pbuf := v,
                                 led := if s.fsm = .send then .unspecified else s.led,
                                 history := s.history ++ [.reset], schedule := rest, draws := s.draws + 1 }) ∧
  (∀ s t : State, (∃ p rest, p.rst = true ∧ s.schedule = .edge p :: rest) → step s = .next t →
    cmdReady t = true ∧ busy t = false ∧ halted t = false ∧ txValid t = false)

/-- 30_encoding.md R60, 70 R152, 44 R122: the device reset also withdraws the host's command and starts its loop again. The line's
effect and the free values are the model's choices (log entries 1, 3, 8, 16). -/
def Obligations.DeviceResetRestartsTheHost : Prop :=
  ∀ (s : State) (rest : List Input), s.cmd = none ∨ s.fsm ≠ .idle → s.schedule = .reset :: rest →
    ∃ v, step s = .next { s with fsm := .idle, pbuf := v, led := if s.fsm = .send then .unspecified else s.led,
                                 history := s.history ++ [.reset], cmd := none, idx := 0, hbr := 0, phase := .ready,
                                 schedule := rest, draws := s.draws + 1 }

/-- 60 R138, R142: in HALT every step leaves the block and the LED as they are, except a reset. That HALT is a next state is read by
inference (log entry 12). -/
def Obligations.HaltIsLeftOnlyByReset : Prop :=
  ∀ s t : State, s.fsm = .halt → step s = .next t →
    (t.fsm = .halt ∧ t.pbuf = s.pbuf ∧ t.history = s.history ∧ t.led = s.led) ∨
    (t.fsm = .idle ∧ t.history = s.history ++ [.reset] ∧ t.led = s.led ∧
      ∃ i rest, s.schedule = i :: rest ∧ resetsBlock i = true)

/-- 60 R144: at one edge the reset comes first, then the completion, then the command; a completion and an acceptance never happen at
one edge. -/
def Obligations.SimultaneousInputsPriority : Prop :=
  (∀ (p : EdgePins) (s : State), p.rst = true → clockEdge p s = .next (resetBlock s)) ∧
  (∀ (p : EdgePins) (s : State), p.rst = false → p.txDone = true → s.fsm = .send →
    ∃ t, clockEdge p s = .next t ∧ t.cmd = s.cmd ∧
      t.history = s.history ++ [.txDone (if p.txFail then .fail else .ok)]) ∧
  (∀ (p : EdgePins) (s : State) (cw : CommandWord), p.rst = false → s.fsm = .idle → s.cmd = some cw →
    ∃ t, clockEdge p s = .next t ∧ t.cmd = none ∧ t.history = s.history ++ [.txWrite t.pbuf])

/-- Every step answers a next state. The spec says that the functions raise nothing (60 R135) and that no word is illegal (30_encoding.md
R58). That a failed write, which 60 R136 and R146 class as a fault, a held command and a panic of the host are next states of the
machine too is read by inference (log entries 12, 9, 17). -/
def Obligations.EveryStepAnswersANextState : Prop :=
  ∀ s : State, ∃ t, step s = .next t

/-- 10_state.md R25, R22: every step, from every state that meets the invariant, leads to a state that meets it: the history is legal
and ends where `FSM` and `PBUF` stand, an outstanding buffer is an encoding, and the LED shows what the history says. The LED's part
follows the model's choices (log entries 3, 14, 15). -/
def Obligations.StepKeepsTheBlockInvariant : Prop :=
  ∀ s t : State, BlockInv s → step s = .next t → BlockInv t

/-- 44 R123, R125: every step keeps the brightness below 100 and paired with its palette entry. The place in the host's loop is the
model's (log entries 16, 17). -/
def Obligations.StepKeepsTheHostPairing : Prop :=
  ∀ s t : State, hostPairs s → step s = .next t → hostPairs t

/-- The state after reset meets both invariants (10_state.md R24, 44 R122; log entries 3, 16, 24). -/
def Obligations.ResetMeetsTheInvariants : Prop :=
  BlockInv State.reset ∧ hostPairs State.reset

/-- 10_state.md R24, 70 R150: the values the spec states for reset. That the history is one `Reset` event is log entry 24. -/
def Obligations.ResetValues : Prop :=
  State.reset.fsm = .idle ∧ cmdReady State.reset = true ∧ busy State.reset = false ∧ halted State.reset = false ∧
  txValid State.reset = false ∧ State.reset.history = [.reset] ∧ State.reset.hbr = 0 ∧ State.reset.idx = 0

/-- 10_state.md R13, R15, R18, R19: the pins as functions of `FSM`, and `tx_data` while a write is requested. -/
def Obligations.PinsFollowFsm : Prop :=
  ∀ s : State,
    (s.fsm = .idle → (fsmCode s.fsm, cmdReady s, txValid s, busy s, halted s) = (0, true, false, false, false)) ∧
    (s.fsm = .send → (fsmCode s.fsm, cmdReady s, txValid s, busy s, halted s) = (1, false, true, true, false) ∧
      txData s = s.pbuf) ∧
    (s.fsm = .halt → (fsmCode s.fsm, cmdReady s, txValid s, busy s, halted s) = (2, false, false, false, true))

/-- 10_state.md R13: the transitions of `FSM`, each with the event that records it. -/
def Obligations.FsmTransitions : Prop :=
  ∀ s t : State, step s = .next t → t.fsm ≠ s.fsm →
    (s.fsm = .idle ∧ t.fsm = .send ∧ s.cmd ≠ none ∧ t.history = s.history ++ [.txWrite t.pbuf]) ∨
    (s.fsm = .send ∧ t.fsm = .idle ∧ t.history = s.history ++ [.txDone .ok]) ∨
    (s.fsm = .send ∧ t.fsm = .halt ∧ t.history = s.history ++ [.txDone .fail]) ∨
    (t.fsm = .idle ∧ t.history = s.history ++ [.reset])

/-- 10_state.md R22, 70 R152: a step appends at most one event, and nothing recorded is ever lost. -/
def Obligations.HistoryGrowsByAtMostOneEvent : Prop :=
  ∀ s t : State, step s = .next t → t.history = s.history ∨ ∃ e, t.history = s.history ++ [e]

/-- 10_state.md R14, 20_memory.md R37: `PBUF` does not change between acceptance and completion, and a step that leaves a write
outstanding has changed it only by accepting a command, whose `TxWrite` carries it. -/
def Obligations.BufferStandsWhileOutstanding : Prop :=
  ∀ s t : State, step s = .next t → t.fsm = .send →
    (s.fsm = .send ∧ t.pbuf = s.pbuf ∧ t.history = s.history) ∨
    (s.fsm = .idle ∧ t.history = s.history ++ [.txWrite t.pbuf])

/-- 70 R158, U8: while neither the transport answers nor a reset comes, the write stays outstanding for any number of steps, with
the same buffer and no event. That quiet edges go by with nothing scheduled is the model's choice (log entry 5). -/
def Obligations.OutstandingWriteNeverTimesOut : Prop :=
  ∀ (n : Nat) (s : State), s.fsm = .send → (∀ i ∈ s.schedule, mayEndWrite i = false) →
    ∃ t, Sys2Proof.core.run n s = .next t ∧ t.fsm = .send ∧ t.pbuf = s.pbuf ∧ t.history = s.history

/-- 43 R101, 30_encoding.md R60: a command held in SEND is accepted in the step after the completion, and that step is exec of the
decoded command (in which order lines are read: log entry 7). Its frame starts with no gap before it, which 70 R157 forbids the host (that
the line counts as low from TXOK: log entry 27). -/
def Obligations.HeldCommandIsAcceptedAfterTxok : Prop :=
  ∀ (s : State) (cw : CommandWord) (rest : List Input),
    s.fsm = .send → s.cmd = some cw → s.schedule = .txok :: rest → (∀ p l, rest ≠ .edge p :: l) →
    ∃ u v, step s = .next u ∧ u.fsm = .idle ∧ u.cmd = some cw ∧
      step u = .next v ∧ v.fsm = .send ∧ v.cmd = none ∧
      v.history = s.history ++ [.txDone .ok, .txWrite v.pbuf] ∧
      (∃ t, exec (decode cw) u = .next t ∧ v = { t with cmd := none, draws := t.draws + 1 }) ∧
      ∀ (tLatch : Nat) (low : Option Nat), 0 < tLatch → gapsKept tLatch 2 low s = false

/-- 70 R160, 10_state.md R18: a command presented in SEND and taken away before the completion is lost: nothing remembers it. That
a host may take it away is read by inference (log entry 26). -/
def Obligations.WithdrawnCommandIsLost : Prop :=
  ∀ (s : State) (cw : CommandWord) (rest : List Input),
    s.fsm = .send → s.cmd = none → s.phase ≠ .panicked → s.schedule = .present cw :: .withdraw :: rest →
    ∃ u, step s = .next u ∧ u.cmd = some cw ∧
      step u = .next { s with schedule := rest, draws := s.draws + 2 }

/-- 10_state.md R25 (c), (d): in a legal history the writes since the last reset exceed the completions by one exactly while a write
is outstanding, and a failed completion is the last event before the next reset, so there is at most one. -/
def Obligations.LegalHistoriesAlternate : Prop :=
  ∀ (h : List Event) (p : Protocol), protocolFrom .idle h = some p →
    (sinceReset h).countP isTxWrite =
      (sinceReset h).countP isTxDone + (match p with | .send _ => 1 | .idle => 0 | .halt => 0) ∧
    (∀ a b : List Event, sinceReset h = a ++ .txDone .fail :: b → b = [] ∧ p = .halt)

/-- 70 R165 defines the ends of a run. A successful end has every write completed ok and no failed one; and from such an end the commands
of any list, each presented and answered ok, lead to the successful end of the longer list. The rest is the model's, not R165's, which
says that something may follow: with nothing more scheduled and no command held, nothing more happens after a successful end, because
edges then go by with quiet pins (log entry 5); and after a faulted end nothing more happens unless a reset is to come (log entry 12).
How a history is read is log entry 28. -/
def Obligations.RunEndsAreFinal : Prop :=
  (∀ (n : Nat) (cmds : List CommandWord) (s : State), runEnd cmds s = .success → s.schedule = [] → s.cmd = none →
    ∃ t, Sys2Proof.core.run n s = .next t ∧ runEnd cmds t = .success ∧ t.history = s.history ∧ t.led = s.led) ∧
  (∀ (n : Nat) (cmds : List CommandWord) (s : State), runEnd cmds s = .faulted →
    (∀ i ∈ s.schedule, resetsBlock i = false) →
    ∃ t, Sys2Proof.core.run n s = .next t ∧ runEnd cmds t = .faulted ∧ t.history = s.history ∧ t.led = s.led) ∧
  (∀ (cmds : List CommandWord) (s : State), runEnd cmds s = .success →
    .txDone .fail ∉ s.history ∧ s.history.countP isTxWrite = cmds.length ∧ s.history.count (.txDone .ok) = cmds.length) ∧
  (∀ (cmds more : List CommandWord) (s : State), runEnd cmds s = .success → s.cmd = none → s.phase ≠ .panicked →
    s.schedule = more.flatMap (fun cw => [.present cw, .txok]) →
    ∃ t, Sys2Proof.core.run (3 * more.length) s = .next t ∧ runEnd (cmds ++ more) t = .success ∧ t.schedule = [])

/-! ### The host -/

/-- 44 R123: the counter goes up by 1 and wraps at 100; from 0 it is `n mod 100` after `n` steps, so never 100 and 0 again after 100. -/
def Obligations.BrightnessWrapsAtHundred : Prop :=
  (∀ hbr : Byte, hbr.toNat ≤ 99 → (advance hbr).toNat = (if hbr.toNat + 1 ≥ 100 then 0 else hbr.toNat + 1)) ∧
  (∀ n : Nat, (advance^[n] 0).toNat = n % 100)

/-- 44 R125: frame `n` uses entry `n mod 4` at brightness `(n + 1) mod 100`; the sequence has period 100, and a brightness always meets
the same entry. And the driver's own actions (44 R124, whose cut into actions is log entry 16) run through these frames: a driver about
to present frame `n` presents its command, keeps its place while it waits, and is then about to present frame `n + 1`; after reset it is
about to present frame 0. -/
def Obligations.FrameSequenceClosedForm : Prop :=
  (∀ n : Nat,
    (frameHost n).1.val = n % 4 ∧ (frameHost n).2.toNat = (n + 1) % 100 ∧ frameHost (n + 100) = frameHost n ∧
    (frameHost n).1.val = ((frameHost n).2.toNat + 3) % 4) ∧
  State.reset.phase = .ready ∧ (State.reset.idx, advance State.reset.hbr) = frameHost 0 ∧
  (∀ (n : Nat) (s : State) (rest : List Input), s.phase = .ready → s.cmd = none → (s.idx, advance s.hbr) = frameHost n →
    s.schedule = .driver :: rest →
    ∃ t, step s = .next t ∧ t.phase = .waiting ∧ (t.idx, t.hbr) = frameHost n ∧
      t.cmd = some (encodeWord (.showc (frameHost n).2 (palette (frameHost n).1).r (palette (frameHost n).1).g
        (palette (frameHost n).1).b))) ∧
  (∀ (n : Nat) (s : State) (rest : List Input), s.phase = .waiting → s.cmd = none → s.fsm ≠ .send →
    (s.idx, s.hbr) = frameHost n → s.schedule = .driver :: rest →
    ∃ t, step s = .next t ∧ t.phase = .suspended ∧ (t.idx, t.hbr) = frameHost n) ∧
  (∀ (n : Nat) (s : State) (rest : List Input), s.phase = .suspended → s.cmd = none → (s.idx, s.hbr) = frameHost n →
    s.schedule = .driver :: rest →
    ∃ t, step s = .next t ∧ t.phase = .ready ∧ (t.idx, advance t.hbr) = frameHost (n + 1))

/-- 44 R124, R121: the three actions of the driver's loop, that it only polls while its command is held, and the palette. The cut into
actions is the model's (log entries 16, 18). -/
def Obligations.DriverTakesItsLoopStep : Prop :=
  (∀ (s : State) (rest : List Input), s.phase = .ready → s.cmd = none → s.schedule = .driver :: rest →
    step s = .next { s with hbr := advance s.hbr, phase := .waiting, schedule := rest, draws := s.draws + 1,
                            cmd := some (encodeWord (.showc (advance s.hbr) (palette s.idx).r (palette s.idx).g
                              (palette s.idx).b)) }) ∧
  (∀ (s : State) (rest : List Input), s.phase = .waiting → s.cmd = none → s.schedule = .driver :: rest →
    step s = .next { s with phase := (if busy s = true then .waiting else .suspended), schedule := rest,
                            draws := s.draws + 1 }) ∧
  (∀ (s : State) (rest : List Input), s.phase = .suspended → s.cmd = none → s.schedule = .driver :: rest →
    step s = .next { s with idx := s.idx + 1, phase := .ready, schedule := rest, draws := s.draws + 1 }) ∧
  (∀ (s : State) (rest : List Input) (cw : CommandWord), s.phase = .ready ∨ s.phase = .waiting → s.cmd = some cw →
    s.fsm ≠ .idle → s.schedule = .driver :: rest → step s = .next { s with schedule := rest, draws := s.draws + 1 }) ∧
  (palette 0 = ⟨0, 0, 0⟩ ∧ palette 1 = ⟨0, 255, 0⟩ ∧ palette 2 = ⟨255, 255, 255⟩ ∧ palette 3 = ⟨0, 0, 255⟩)

/-- 60 R140, U7: a panic stops the host and touches nothing of the block; a panicked host presents nothing. That its pins fall is read by
inference (log entry 17). -/
def Obligations.PanicStopsOnlyTheHost : Prop :=
  (∀ (s : State) (rest : List Input), s.cmd = none ∨ s.fsm ≠ .idle → s.schedule = .panic :: rest →
    step s = .next { s with cmd := none, phase := .panicked, schedule := rest, draws := s.draws + 1 }) ∧
  (∀ (s : State) (rest : List Input) (i : Input), s.phase = .panicked → s.cmd = none →
    (i = .driver ∨ ∃ cw, i = .present cw) → s.schedule = i :: rest →
    step s = .next { s with schedule := rest, draws := s.draws + 1 })

/-- 10_state.md R10, 44 R129, R131, 30_encoding.md R60: what the host does by itself, and the heartbeat and a wait, touches neither
`FSM`, `PBUF`, the history nor the LED; a wait and the heartbeat touch nothing at all. The command port is empty or cannot be
accepted. A command line puts its word on the empty port, in every FSM, and the next command line is not begun while one is pending
(R60; log entry 7). The schedule is the model's (log entry 5). -/
def Obligations.HostActionsLeaveTheBlock : Prop :=
  (∀ (s t : State) (i : Input) (rest : List Input), s.cmd = none ∨ s.fsm ≠ .idle → s.schedule = i :: rest →
    (i = .withdraw ∨ i = .driver ∨ i = .panic ∨ ∃ cw, i = .present cw) → step s = .next t →
    t.fsm = s.fsm ∧ t.pbuf = s.pbuf ∧ t.history = s.history ∧ t.led = s.led) ∧
  (∀ (s : State) (i : Input) (rest : List Input), s.cmd = none ∨ s.fsm ≠ .idle → s.schedule = i :: rest →
    (i = .heartbeat ∨ ∃ n, i = .wait n) → step s = .next { s with schedule := rest, draws := s.draws + 1 }) ∧
  (∀ (s : State) (cw : CommandWord) (rest : List Input), s.cmd = none → s.phase ≠ .panicked →
    s.schedule = .present cw :: rest →
    step s = .next { s with cmd := some cw, schedule := rest, draws := s.draws + 1 }) ∧
  (∀ (s : State) (cw held : CommandWord) (rest : List Input), s.cmd = some held → s.fsm ≠ .idle →
    s.schedule = .present cw :: rest → step s = .next { s with draws := s.draws + 1 })
end

