-- ==== Sys2Proof/Laws/State.lean ====
section
/-! SUPPORT. Every field after every setter of Machine/Ops.lean, so that no proof unfolds a record update. -/

namespace Sys2Proof.Machine

variable (s : State)

@[simp] theorem setFsm_fsm (f : Fsm) : (setFsm f s).fsm = f := rfl
@[simp] theorem setFsm_pbuf (f : Fsm) : (setFsm f s).pbuf = s.pbuf := rfl
@[simp] theorem setFsm_history (f : Fsm) : (setFsm f s).history = s.history := rfl
@[simp] theorem setFsm_cmd (f : Fsm) : (setFsm f s).cmd = s.cmd := rfl
@[simp] theorem setFsm_led (f : Fsm) : (setFsm f s).led = s.led := rfl
@[simp] theorem setFsm_idx (f : Fsm) : (setFsm f s).idx = s.idx := rfl
@[simp] theorem setFsm_hbr (f : Fsm) : (setFsm f s).hbr = s.hbr := rfl
@[simp] theorem setFsm_phase (f : Fsm) : (setFsm f s).phase = s.phase := rfl
@[simp] theorem setFsm_schedule (f : Fsm) : (setFsm f s).schedule = s.schedule := rfl
@[simp] theorem setFsm_draws (f : Fsm) : (setFsm f s).draws = s.draws := rfl

@[simp] theorem setPbuf_fsm (buf : PulseBuffer) : (setPbuf buf s).fsm = s.fsm := rfl
@[simp] theorem setPbuf_pbuf (buf : PulseBuffer) : (setPbuf buf s).pbuf = buf := rfl
@[simp] theorem setPbuf_history (buf : PulseBuffer) : (setPbuf buf s).history = s.history := rfl
@[simp] theorem setPbuf_cmd (buf : PulseBuffer) : (setPbuf buf s).cmd = s.cmd := rfl
@[simp] theorem setPbuf_led (buf : PulseBuffer) : (setPbuf buf s).led = s.led := rfl
@[simp] theorem setPbuf_idx (buf : PulseBuffer) : (setPbuf buf s).idx = s.idx := rfl
@[simp] theorem setPbuf_hbr (buf : PulseBuffer) : (setPbuf buf s).hbr = s.hbr := rfl
@[simp] theorem setPbuf_phase (buf : PulseBuffer) : (setPbuf buf s).phase = s.phase := rfl
@[simp] theorem setPbuf_schedule (buf : PulseBuffer) : (setPbuf buf s).schedule = s.schedule := rfl
@[simp] theorem setPbuf_draws (buf : PulseBuffer) : (setPbuf buf s).draws = s.draws := rfl

@[simp] theorem record_fsm (e : Event) : (record e s).fsm = s.fsm := rfl
@[simp] theorem record_pbuf (e : Event) : (record e s).pbuf = s.pbuf := rfl
@[simp] theorem record_history (e : Event) : (record e s).history = s.history ++ [e] := rfl
@[simp] theorem record_cmd (e : Event) : (record e s).cmd = s.cmd := rfl
@[simp] theorem record_led (e : Event) : (record e s).led = s.led := rfl
@[simp] theorem record_idx (e : Event) : (record e s).idx = s.idx := rfl
@[simp] theorem record_hbr (e : Event) : (record e s).hbr = s.hbr := rfl
@[simp] theorem record_phase (e : Event) : (record e s).phase = s.phase := rfl
@[simp] theorem record_schedule (e : Event) : (record e s).schedule = s.schedule := rfl
@[simp] theorem record_draws (e : Event) : (record e s).draws = s.draws := rfl

@[simp] theorem setCmd_fsm (c : Option CommandWord) : (setCmd c s).fsm = s.fsm := rfl
@[simp] theorem setCmd_pbuf (c : Option CommandWord) : (setCmd c s).pbuf = s.pbuf := rfl
@[simp] theorem setCmd_history (c : Option CommandWord) : (setCmd c s).history = s.history := rfl
@[simp] theorem setCmd_cmd (c : Option CommandWord) : (setCmd c s).cmd = c := rfl
@[simp] theorem setCmd_led (c : Option CommandWord) : (setCmd c s).led = s.led := rfl
@[simp] theorem setCmd_idx (c : Option CommandWord) : (setCmd c s).idx = s.idx := rfl
@[simp] theorem setCmd_hbr (c : Option CommandWord) : (setCmd c s).hbr = s.hbr := rfl
@[simp] theorem setCmd_phase (c : Option CommandWord) : (setCmd c s).phase = s.phase := rfl
@[simp] theorem setCmd_schedule (c : Option CommandWord) : (setCmd c s).schedule = s.schedule := rfl
@[simp] theorem setCmd_draws (c : Option CommandWord) : (setCmd c s).draws = s.draws := rfl

@[simp] theorem setLed_fsm (l : Led) : (setLed l s).fsm = s.fsm := rfl
@[simp] theorem setLed_pbuf (l : Led) : (setLed l s).pbuf = s.pbuf := rfl
@[simp] theorem setLed_history (l : Led) : (setLed l s).history = s.history := rfl
@[simp] theorem setLed_cmd (l : Led) : (setLed l s).cmd = s.cmd := rfl
@[simp] theorem setLed_led (l : Led) : (setLed l s).led = l := rfl
@[simp] theorem setLed_idx (l : Led) : (setLed l s).idx = s.idx := rfl
@[simp] theorem setLed_hbr (l : Led) : (setLed l s).hbr = s.hbr := rfl
@[simp] theorem setLed_phase (l : Led) : (setLed l s).phase = s.phase := rfl
@[simp] theorem setLed_schedule (l : Led) : (setLed l s).schedule = s.schedule := rfl
@[simp] theorem setLed_draws (l : Led) : (setLed l s).draws = s.draws := rfl

@[simp] theorem setHost_fsm (i : Fin 4) (b : Byte) (p : HostPhase) : (setHost i b p s).fsm = s.fsm := rfl
@[simp] theorem setHost_pbuf (i : Fin 4) (b : Byte) (p : HostPhase) : (setHost i b p s).pbuf = s.pbuf := rfl
@[simp] theorem setHost_history (i : Fin 4) (b : Byte) (p : HostPhase) : (setHost i b p s).history = s.history := rfl
@[simp] theorem setHost_cmd (i : Fin 4) (b : Byte) (p : HostPhase) : (setHost i b p s).cmd = s.cmd := rfl
@[simp] theorem setHost_led (i : Fin 4) (b : Byte) (p : HostPhase) : (setHost i b p s).led = s.led := rfl
@[simp] theorem setHost_idx (i : Fin 4) (b : Byte) (p : HostPhase) : (setHost i b p s).idx = i := rfl
@[simp] theorem setHost_hbr (i : Fin 4) (b : Byte) (p : HostPhase) : (setHost i b p s).hbr = b := rfl
@[simp] theorem setHost_phase (i : Fin 4) (b : Byte) (p : HostPhase) : (setHost i b p s).phase = p := rfl
@[simp] theorem setHost_schedule (i : Fin 4) (b : Byte) (p : HostPhase) : (setHost i b p s).schedule = s.schedule := rfl
@[simp] theorem setHost_draws (i : Fin 4) (b : Byte) (p : HostPhase) : (setHost i b p s).draws = s.draws := rfl

@[simp] theorem setSchedule_fsm (l : List Input) : (setSchedule l s).fsm = s.fsm := rfl
@[simp] theorem setSchedule_pbuf (l : List Input) : (setSchedule l s).pbuf = s.pbuf := rfl
@[simp] theorem setSchedule_history (l : List Input) : (setSchedule l s).history = s.history := rfl
@[simp] theorem setSchedule_cmd (l : List Input) : (setSchedule l s).cmd = s.cmd := rfl
@[simp] theorem setSchedule_led (l : List Input) : (setSchedule l s).led = s.led := rfl
@[simp] theorem setSchedule_idx (l : List Input) : (setSchedule l s).idx = s.idx := rfl
@[simp] theorem setSchedule_hbr (l : List Input) : (setSchedule l s).hbr = s.hbr := rfl
@[simp] theorem setSchedule_phase (l : List Input) : (setSchedule l s).phase = s.phase := rfl
@[simp] theorem setSchedule_schedule (l : List Input) : (setSchedule l s).schedule = l := rfl
@[simp] theorem setSchedule_draws (l : List Input) : (setSchedule l s).draws = s.draws := rfl

@[simp] theorem tick_fsm : (tick s).fsm = s.fsm := rfl
@[simp] theorem tick_pbuf : (tick s).pbuf = s.pbuf := rfl
@[simp] theorem tick_history : (tick s).history = s.history := rfl
@[simp] theorem tick_cmd : (tick s).cmd = s.cmd := rfl
@[simp] theorem tick_led : (tick s).led = s.led := rfl
@[simp] theorem tick_idx : (tick s).idx = s.idx := rfl
@[simp] theorem tick_hbr : (tick s).hbr = s.hbr := rfl
@[simp] theorem tick_phase : (tick s).phase = s.phase := rfl
@[simp] theorem tick_schedule : (tick s).schedule = s.schedule := rfl
@[simp] theorem tick_draws : (tick s).draws = s.draws + 1 := rfl

@[simp] theorem dropPbuf_fsm : (dropPbuf s).fsm = s.fsm := rfl
@[simp] theorem dropPbuf_pbuf : (dropPbuf s).pbuf = Config.freePbuf s.draws := rfl
@[simp] theorem dropPbuf_history : (dropPbuf s).history = s.history := rfl
@[simp] theorem dropPbuf_cmd : (dropPbuf s).cmd = s.cmd := rfl
@[simp] theorem dropPbuf_led : (dropPbuf s).led = s.led := rfl
@[simp] theorem dropPbuf_idx : (dropPbuf s).idx = s.idx := rfl
@[simp] theorem dropPbuf_hbr : (dropPbuf s).hbr = s.hbr := rfl
@[simp] theorem dropPbuf_phase : (dropPbuf s).phase = s.phase := rfl
@[simp] theorem dropPbuf_schedule : (dropPbuf s).schedule = s.schedule := rfl
@[simp] theorem dropPbuf_draws : (dropPbuf s).draws = s.draws := rfl

/-- Two states with equal fields are equal. -/
theorem State.ext_fields {s t : State} (h1 : s.fsm = t.fsm) (h2 : s.pbuf = t.pbuf) (h3 : s.history = t.history)
    (h4 : s.cmd = t.cmd) (h5 : s.led = t.led) (h6 : s.idx = t.idx) (h7 : s.hbr = t.hbr) (h8 : s.phase = t.phase)
    (h9 : s.schedule = t.schedule) (h10 : s.draws = t.draws) : s = t := by
  cases s
  cases t
  simp_all

end Sys2Proof.Machine
end

