-- ==== Sys2Proof/Laws/Ops.lean ====
section
/-! SUPPORT. What each shared operation of Machine/Ops.lean can do, said once. -/

namespace Sys2Proof.Machine

/-- Acceptance in IDLE starts the write. -/
theorem acceptWrite_idle (buf : PulseBuffer) {s : State} (h : s.fsm = .idle) :
    acceptWrite buf s = .next (startWrite buf s) := by
  simp [acceptWrite, h]

/-- Outside IDLE the command is held. -/
theorem acceptWrite_held (buf : PulseBuffer) {s : State} (h : s.fsm ≠ .idle) : acceptWrite buf s = .next s := by
  unfold acceptWrite
  split
  · exact absurd ‹_› h
  · rfl
  · rfl

/-- Everything acceptance can do. -/
theorem acceptWrite_cases {buf : PulseBuffer} {s t : State} (h : acceptWrite buf s = .next t) :
    (s.fsm = .idle ∧ t = startWrite buf s) ∨ (s.fsm ≠ .idle ∧ t = s) := by
  by_cases hi : s.fsm = .idle
  · rw [acceptWrite_idle buf hi] at h
    exact .inl ⟨hi, (Host.Outcome.next.inj h).symm⟩
  · rw [acceptWrite_held buf hi] at h
    exact .inr ⟨hi, (Host.Outcome.next.inj h).symm⟩

/-- Both commands are one acceptance of the buffer they send. -/
theorem exec_eq_acceptWrite (i : Instr) (s : State) : exec i s = acceptWrite (sentBy i) s := by
  cases i <;> rfl

/-- The buffer a command sends is an encoding. -/
theorem sentBy_encoding (i : Instr) : ∃ pk, sentBy i = encode pk := by
  cases i with
  | showp z pk => exact ⟨pk, rfl⟩
  | showc br r g b => exact ⟨packedOperand (colorOperand r g b) br, rfl⟩

/-- `startWrite`, field by field. -/
theorem startWrite_eq (buf : PulseBuffer) (s : State) :
    startWrite buf s = { s with fsm := .send, pbuf := buf, history := s.history ++ [.txWrite buf] } := rfl

/-- TXOK, field by field. -/
theorem completeOk_eq (s : State) :
    completeOk s = { s with fsm := .idle, pbuf := Config.freePbuf s.draws, led := ledAfter s.pbuf,
                            history := s.history ++ [.txDone .ok] } := rfl

/-- TXFAIL, field by field. -/
theorem completeFail_eq (s : State) :
    completeFail s = { s with fsm := .halt, pbuf := Config.freePbuf s.draws, led := .unspecified,
                              history := s.history ++ [.txDone .fail] } := rfl

/-- RESET of the block, field by field. -/
theorem resetBlock_eq (s : State) :
    resetBlock s = { s with fsm := .idle, pbuf := Config.freePbuf s.draws, led := ledAfterReset s,
                            history := s.history ++ [.reset] } := rfl

/-- The device reset, field by field. -/
theorem resetDevice_eq (s : State) :
    resetDevice s = { s with fsm := .idle, pbuf := Config.freePbuf s.draws, led := ledAfterReset s,
                             history := s.history ++ [.reset], cmd := none, idx := 0, hbr := 0, phase := .ready } := rfl

end Sys2Proof.Machine
end

