-- ==== Sys2Proof/Laws/Edge.lean ====
section
/-! SUPPORT. What one clock edge and one step can do: the cases every invariant is proved from. -/

namespace Sys2Proof.Machine

/-- What one clock edge can do to a state, `rst` being the level of the reset pin: one of these five. -/
inductive BlockMove (rst : Bool) (s : State) : State → Prop where
  /-- No effect on the block. -/
  | stay : BlockMove rst s s
  /-- A presented command accepted in IDLE (43 R102, R103). -/
  | accept (cw : CommandWord) (hi : s.fsm = .idle) (hc : s.cmd = some cw) :
      BlockMove rst s (setCmd none (startWrite (sentBy (decode cw)) s))
  /-- TXOK (43 R105). -/
  | ok (hs : s.fsm = .send) : BlockMove rst s (completeOk s)
  /-- TXFAIL (43 R106). -/
  | fail (hs : s.fsm = .send) : BlockMove rst s (completeFail s)
  /-- RESET of the block (70 R150). -/
  | reset (hr : rst = true) : BlockMove rst s (resetBlock s)

/-- The command port in IDLE: the word is executed and taken off the port. -/
theorem sampleCommand_idle (cw : CommandWord) {s : State} (h : s.fsm = .idle) :
    sampleCommand cw s = .next (setCmd none (startWrite (sentBy (decode cw)) s)) := by
  simp [sampleCommand, exec_eq_acceptWrite, acceptWrite_idle _ h, cmdReady, h]

/-- The command port outside IDLE: held. -/
theorem sampleCommand_held (cw : CommandWord) {s : State} (h : s.fsm ≠ .idle) : sampleCommand cw s = .next s := by
  simp [sampleCommand, exec_eq_acceptWrite, acceptWrite_held _ h, cmdReady, h]

/-- One clock edge always answers, by a move of the block. -/
theorem clockEdge_move (p : EdgePins) (s : State) : ∃ t, clockEdge p s = .next t ∧ BlockMove p.rst s t := by
  unfold clockEdge
  split
  · exact ⟨_, rfl, .reset ‹_›⟩
  · split
    · next h =>
      have hs : s.fsm = .send := by simp_all [busy]
      split
      · exact ⟨_, rfl, .fail hs⟩
      · exact ⟨_, rfl, .ok hs⟩
    · split
      · next cw hc =>
        by_cases hi : s.fsm = .idle
        · exact ⟨_, sampleCommand_idle cw hi, .accept cw hi hc⟩
        · exact ⟨_, sampleCommand_held cw hi, .stay⟩
      · exact ⟨_, rfl, .stay⟩

/-- What an agent outside the block can do: only the host's fields, the command port and the schedule change. -/
def OutsideMove (s t : State) : Prop :=
  t.fsm = s.fsm ∧ t.pbuf = s.pbuf ∧ t.history = s.history ∧ t.led = s.led ∧ t.draws = s.draws

theorem OutsideMove.refl (s : State) : OutsideMove s s := ⟨rfl, rfl, rfl, rfl, rfl⟩

/-- The driver's action never touches the block (44 R124). -/
theorem driverAction_outside (s : State) : OutsideMove s (driverAction s) := by
  unfold driverAction
  split
  · split <;> exact ⟨rfl, rfl, rfl, rfl, rfl⟩
  · split <;> exact ⟨rfl, rfl, rfl, rfl, rfl⟩
  · exact ⟨rfl, rfl, rfl, rfl, rfl⟩
  · exact OutsideMove.refl s

/-- A line whose turn has come, with no held command that can be accepted first. -/
theorem runNext_line {s : State} {i : Input} {rest : List Input} (hs : s.schedule = i :: rest) (he : ∀ p, i ≠ .edge p)
    (ha : acceptsFirst s = false) :
    runNext s = if mustWait i s then .next s else runInput i (setSchedule rest s) := by
  unfold runNext
  rw [hs]
  cases i with
  | edge p => exact absurd rfl (he p)
  | _ => simp [ha]

/-- What a step does before the draw counter advances. -/
inductive StepMove (s : State) : State → Prop where
  /-- An edge with the schedule as it stands. -/
  | quiet {u : State} (h : BlockMove false s u) : StepMove s u
  /-- An edge given by the schedule's first input `i`. -/
  | edge {u : State} {rst : Bool} (i : Input) (rest : List Input) (hs : s.schedule = i :: rest)
      (hr : rst = true → resetsBlock i = true) (h : BlockMove rst (setSchedule rest s) u) : StepMove s u
  /-- A line that leaves the block and the host's loop alone. -/
  | line {u : State} (h : OutsideMove s u) (hi : u.idx = s.idx) (hb : u.hbr = s.hbr) (hp : u.phase = s.phase) : StepMove s u
  /-- The driver's action. -/
  | driver (rest : List Input) (hs : s.schedule = .driver :: rest) : StepMove s (driverAction (setSchedule rest s))
  /-- The host's panic. -/
  | panic (rest : List Input) (hs : s.schedule = .panic :: rest) : StepMove s (hostPanic (setSchedule rest s))
  /-- The device reset. -/
  | device (rest : List Input) (hs : s.schedule = .reset :: rest) : StepMove s (resetDevice (setSchedule rest s))

/-- Everything one turn of the schedule can do. -/
theorem runNext_move (s : State) : ∃ u, runNext s = .next u ∧ StepMove s u := by
  rcases hs : s.schedule with _ | ⟨i, rest⟩
  · obtain ⟨u, hu, hm⟩ := clockEdge_move quietEdge s
    exact ⟨u, by simp [runNext, hs, hu], .quiet hm⟩
  by_cases he : ∃ p, i = .edge p
  · obtain ⟨p, rfl⟩ := he
    obtain ⟨u, hu, hm⟩ := clockEdge_move p (setSchedule rest s)
    exact ⟨u, by simp [runNext, hs, hu], .edge _ rest hs id hm⟩
  by_cases ha : acceptsFirst s = true
  · obtain ⟨u, hu, hm⟩ := clockEdge_move quietEdge s
    refine ⟨u, ?_, .quiet hm⟩
    unfold runNext
    rw [hs]
    cases i with
    | edge p => exact absurd ⟨p, rfl⟩ he
    | _ => simp [ha, hu]
  rw [runNext_line hs (fun p hp => he ⟨p, hp⟩) (by simpa using ha)]
  by_cases hw : mustWait i s = true
  · exact ⟨s, by simp [hw], .line (OutsideMove.refl s) rfl rfl rfl⟩
  simp only [hw, Bool.false_eq_true, if_false]
  cases i with
  | present cw =>
    refine ⟨_, rfl, ?_⟩
    split <;> exact .line ⟨rfl, rfl, rfl, rfl, rfl⟩ rfl rfl rfl
  | withdraw => exact ⟨_, rfl, .line ⟨rfl, rfl, rfl, rfl, rfl⟩ rfl rfl rfl⟩
  | driver => exact ⟨_, rfl, .driver rest hs⟩
  | panic => exact ⟨_, rfl, .panic rest hs⟩
  | heartbeat => exact ⟨_, rfl, .line ⟨rfl, rfl, rfl, rfl, rfl⟩ rfl rfl rfl⟩
  | wait t => exact ⟨_, rfl, .line ⟨rfl, rfl, rfl, rfl, rfl⟩ rfl rfl rfl⟩
  | txok =>
    obtain ⟨u, hu, hm⟩ := clockEdge_move (txEdge false) (setSchedule rest s)
    exact ⟨u, hu, .edge _ rest hs (fun h => by simp [txEdge] at h) hm⟩
  | txfail =>
    obtain ⟨u, hu, hm⟩ := clockEdge_move (txEdge true) (setSchedule rest s)
    exact ⟨u, hu, .edge _ rest hs (fun h => by simp [txEdge] at h) hm⟩
  | reset => exact ⟨_, rfl, .device rest hs⟩
  | edge p => exact absurd ⟨p, rfl⟩ he

end Sys2Proof.Machine
end

