-- ==== Sys2Proof/Laws/Functions.lean ====
section
/-! SUPPORT. What the building blocks of SCALE and ENCODE do, said once: one pass of SCRATCH's loop, the loop over any list of
positions, and one channel of SCALE. -/

namespace Sys2Proof.Machine

/-- A symbol bit by bit: high, the data bit, low. -/
theorem symbol_getLsbD (x : Bool) (j : Nat) :
    (symbol x).getLsbD j = (decide (j = 2) || (decide (j = 1) && x)) := by
  rcases j with _ | _ | _ | j
  · cases x <;> rfl
  · cases x <;> rfl
  · cases x <;> rfl
  · simp

/-- One pass of SCRATCH's loop, bit by bit. -/
theorem scratchPut_getLsbD (w : Nat) (pk : PackedColor) (acc : BitVec w) (i j : Nat) :
    (scratchPut w pk acc i).getLsbD j =
      (acc.getLsbD j || (decide (j < w) && !decide (j < 3 * i) && (symbol (pk.getLsbD i)).getLsbD (j - 3 * i))) := by
  by_cases hj : j < w <;> simp [scratchPut, hj]

/-- SCRATCH's loop over any positions, from any accumulator, bit by bit. -/
theorem scratchFold_getLsbD (w : Nat) (pk : PackedColor) (l : List Nat) (acc : BitVec w) (j : Nat) :
    (l.foldl (scratchPut w pk) acc).getLsbD j =
      (acc.getLsbD j || l.any fun i =>
        decide (j < w) && !decide (j < 3 * i) && (symbol (pk.getLsbD i)).getLsbD (j - 3 * i)) := by
  induction l generalizing acc with
  | nil => simp
  | cons i l ih => rw [List.foldl_cons, ih, scratchPut_getLsbD, List.any_cons, Bool.or_assoc]

/-- The quotient of one channel fits its 8 bits (40_scale.md R68 (a)). -/
theorem scale_quotient_lt (c br : Byte) : c.toNat * br.toNat / scaleDiv < 256 := by
  have hc := c.isLt
  have hb := br.isLt
  have h : c.toNat * br.toNat ≤ 255 * 255 := Nat.mul_le_mul (by omega) (by omega)
  unfold scaleDiv
  omega

end Sys2Proof.Machine
end

