-- ==== Sys2Proof/Laws/Monitors.lean ====
section
/-! SUPPORT. What the two readings of a run can answer: its end (70_reset_and_hazards.md R165) and the inter-frame gap (R157). -/

namespace Sys2Proof.Machine

/-- A successful end, said by the state alone. -/
theorem runEnd_success_iff {cmds : List CommandWord} {s : State} :
    runEnd cmds s = .success ↔ s.fsm = .idle ∧ withoutResets s.history = okEvents cmds := by
  unfold runEnd
  split <;> simp [*]

/-- A faulted end, said by the state alone. -/
theorem runEnd_faulted_iff {cmds : List CommandWord} {s : State} : runEnd cmds s = .faulted ↔ s.fsm = .halt := by
  unfold runEnd
  split
  · simp [*]
  · simp [*]
  · split <;> simp [*]

/-- The events of a longer list of commands. -/
theorem okEvents_append (a b : List CommandWord) : okEvents (a ++ b) = okEvents a ++ okEvents b := by
  simp [okEvents]

@[simp] theorem withoutResets_append (a b : List Event) : withoutResets (a ++ b) = withoutResets a ++ withoutResets b := by
  simp [withoutResets]

/-- One step of the gap monitor. -/
theorem gapsKept_next {tLatch n : Nat} {low : Option Nat} {s t : State} (h : step s = .next t) :
    gapsKept tLatch (n + 1) low s = (gapAtStart tLatch s t low && gapsKept tLatch n (lowAfter s t low) t) := by
  simp [gapsKept, h]

/-- Where a write ends, the low time starts again. -/
theorem lowAfter_end {s t : State} {low : Option Nat} (hs : busy s = true) (ht : busy t = false) :
    lowAfter s t low = some 0 := by
  simp [lowAfter, hs, ht]

/-- While a write is outstanding no time counts. -/
theorem lowAfter_outstanding {s t : State} {low : Option Nat} (hs : busy s = true) (ht : busy t = true) :
    lowAfter s t low = low := by
  simp [lowAfter, hs, ht]

/-- With no write outstanding only the step's own time is added. -/
theorem lowAfter_free {s t : State} {low : Option Nat} (hs : busy s = false) :
    lowAfter s t low = low.map fun u => u + stepTime s := by
  simp [lowAfter, hs]

/-- No frame starts in this step. -/
theorem gapAtStart_noFrame {tLatch : Nat} {s t : State} {low : Option Nat} (h : busy s = true ∨ busy t = false) :
    gapAtStart tLatch s t low = true := by
  rcases h with h | h <;> simp [gapAtStart, h]

/-- A frame starts, the line being low for `u` microseconds. -/
theorem gapAtStart_frame {tLatch u : Nat} {s t : State} (hs : busy s = false) (ht : busy t = true) :
    gapAtStart tLatch s t (some u) = decide (tLatch ≤ u) := by
  simp [gapAtStart, hs, ht]

end Sys2Proof.Machine
end

