-- ==== Sys2Proof/Laws/PerInstr.lean ====
section
/-! SUPPORT. Statements made per instruction: bit 32 of a command's word selects the operation (30_encoding.md R55). -/

namespace Sys2Proof.Laws.OpSelect

/-- Whether a command is a SHOWC. -/
def isShowc : Instr → Bool
  | .showp _ _ => false
  | .showc _ _ _ _ => true

/-- `CW[32]` of a command's word is 0 for SHOWP and 1 for SHOWC (R55 to R57). -/
def Statement (i : Instr) : Prop := opField (encodeWord i) = isShowc i

theorem showp (z : Byte) (pk : PackedColor) : Statement (.showp z pk) := by
  unfold Statement opField encodeWord isShowc
  rw [BitVec.getLsbD_append, BitVec.getLsbD_append]
  simp

theorem showc (br r g b : Byte) : Statement (.showc br r g b) := by
  unfold Statement opField encodeWord isShowc
  rw [BitVec.getLsbD_append, BitVec.getLsbD_append, BitVec.getLsbD_append, BitVec.getLsbD_append]
  simp

end Sys2Proof.Laws.OpSelect
end

