-- ==== Sys2Proof/Tests/Slice0.lean ====
section
/-! SUPPORT. Small tests. Every expected value is from spec/: the worked examples and derived vectors of 95_test_vectors.md, the
encodings of 30_encoding.md, or the state tables of 10_state.md. -/

namespace Sys2Proof.Tests

open Sys2Proof.Machine

/-! ## Well-formedness: an ill-formed term for each check (00_scope.md R5, 30_encoding.md R60) -/

/-- A platform inside every bound: 2.5 MHz, 50 microseconds. -/
def goodPlatform : Platform := { fSpi := 2500000, cpol := false, cpha := true, tLatch := 50 }

theorem test_wf_instr : (Instr.showp 0xFF 0xFFFFFF).wf = true ∧ (Instr.showc 255 0 0 0).wf = true := by decide
theorem test_wf_scratch_default : wScratchWf Config.wScratch = true ∧ wScratchWf 72 = true := by decide
theorem test_wf_scratch_too_narrow : wScratchWf 64 = false := by decide
theorem test_wf_scratch_not_bytes : wScratchWf 76 = false := by decide
theorem test_wf_platform : goodPlatform.wf = true := by decide
theorem test_wf_platform_too_fast : Platform.wf { goodPlatform with fSpi := 4000001 } = false := by decide
theorem test_wf_platform_too_slow : Platform.wf { goodPlatform with fSpi := 1818181 } = false := by decide
theorem test_wf_platform_latch_too_short : Platform.wf { goodPlatform with tLatch := 49 } = false := by decide
theorem test_wf_line_showp : lineWf (.showp 0xFFFFFF) = true ∧ lineWf (.showp 0x1000000) = false := by decide
theorem test_wf_line_showc_red : lineWf (.showc 256 0 0 0) = false := by decide
theorem test_wf_line_showc_green : lineWf (.showc 0 256 0 0) = false := by decide
theorem test_wf_line_showc_blue : lineWf (.showc 0 0 256 0) = false := by decide
theorem test_wf_line_showc_brightness : lineWf (.showc 0 0 0 256) = false := by decide
theorem test_wf_line_showrgb :
    lineWf (.showrgb 256 0 0) = false ∧ lineWf (.showrgb 0 256 0) = false ∧ lineWf (.showrgb 0 0 256) = false := by decide

/-! ## Decoding: words written out from 30_encoding.md R56 and R57 -/

/-- R56: `0 zzzzzzzz pppppppp pppppppp pppppppp` with z = 0xA5, pk = 0x00FF00 (95 part 2.4). -/
theorem test_decode_showp :
    decode 0b0_10100101_00000000_11111111_00000000#33 = .showp 0xA5 0x00FF00 := by decide

/-- R57: `1 kkkkkkkk rrrrrrrr gggggggg bbbbbbbb` with br = 50, (r, g, b) = (0, 255, 0) (95 E6). -/
theorem test_decode_showc :
    decode 0b1_00110010_00000000_11111111_00000000#33 = .showc 50 0 255 0 := by decide

/-- R57: four different fields, 95 part 2.4 `SHOWC 10, 20, 30, 200`. -/
theorem test_decode_showc_fields : decodeTableWord 40 0x1C80A141E = some (.showc 200 10 20 30) := by decide

theorem test_decode_showp_table : decodeTableWord 33 0x0FFFFFFFF = some (.showp 0xFF 0xFFFFFF) := by decide
theorem test_decode_too_wide : decodeBits 0x200000000 = .error .widerThanCommandWord := by decide
theorem test_encode_showp : encodeWord (.showp 0 0x00FF00) = 0x00000FF00#33 := by decide
theorem test_encode_showc : encodeWord (.showc 255 0x12 0x34 0x56) = 0x1FF123456#33 := by decide

/-- R60: the words of the script lines (95 part 2.4). -/
theorem test_line_words :
    lineWord (.showc 255 128 64 128) = some 0x180FF8040#33 ∧ lineWord (.showrgb 255 0 0) = some 0x1FFFF0000#33 ∧
      lineWord .off = some 0#33 := by decide

/-! ## SCALE, PACK, ENCODE: vectors of 95_test_vectors.md parts 2.1 to 2.3 -/

theorem test_scale_channel :
    [scaleChannel 255 50, scaleChannel 254 254, scaleChannel 1 254, scaleChannel 1 255, scaleChannel 100 50,
      scaleChannel 100 51, scaleChannel 200 100, scaleChannel 253 99, scaleChannel 204 155] =
      [50, 253, 0, 1, 19, 20, 78, 98, 124] := by decide
theorem test_scale_colour : scale ⟨85, 170, 51⟩ 147 = ⟨49, 98, 29⟩ := by decide
theorem test_scale_binary64 : scaleChannelBinary64 204 155 = 123 ∧ scaleChannelBinary64 100 50 = 19 := by decide
theorem test_pack_orders_grb : pack ⟨0x12, 0x34, 0x56⟩ = 0x341256 := by decide
theorem test_pack_keeps_bit_order : pack ⟨0xAB, 0xCD, 0xEF⟩ = 0xCDABEF := by decide
theorem test_encode_zero : encode 0 = 0x924924924924924924 := by decide
theorem test_encode_mixed : encode 0x123456 = 0x926934_9369A4_9A69B4 := by decide
theorem test_encode_one_bit_per_field : encode 0x018004 = 0x924926_D24924_9249A4 := by decide
theorem test_encode_bytes : bufBytes (encode 0x320000) = [0x93, 0x69, 0x34, 0x92, 0x49, 0x24, 0x92, 0x49, 0x24] := by decide
theorem test_encode_narrow_scratch : encodeVia 72 0xCDABEF = 0xDA4DA6_D34D36_DB4DB6 := by decide
theorem test_bytewise : encodeBytewise 0x7F807F = [0x9B, 0x6D, 0xB6, 0xD2, 0x49, 0x24, 0x9B, 0x6D, 0xB6] := by decide

/-! ## The line and the LED (43 R109, R111, R112) -/

/-- The first byte of `ENCODE(0)` is 0x92, on the line as 1 0 0 1 0 0 1 0. -/
theorem test_line_order : (subBits (encode 0)).take 8 = [true, false, false, true, false, false, true, false] := by decide
theorem test_led_receives : ledReceives (encode 0xCDABEF) = some 0xCDABEF := by decide
/-- A buffer with a symbol `000` carries no colour (R51, R58). -/
theorem test_led_refuses_other_pulses : ledReceives 0 = none := by decide
theorem test_pulse_widths : pulseWidths 400 true = (800, 400) ∧ pulseWidths 400 false = (400, 800) := by decide

/-! ## The commands, on small states -/

/-- After reset with one command presented. -/
def presented (w : Nat) : State := State.reset.withFetchWord 40 w

/-- What a test looks at of an outcome: `FSM`, the history, and whether a command is still on the port. -/
def seen : Result → Option (Fsm × List Event × Bool)
  | .next t => some (t.fsm, t.history, t.cmd.isSome)
  | .fault _ => none
  | .refused _ => none

/-- 95 part 2.4: `SHOWP 0x00FF00` with z = 0xA5. -/
theorem test_showp_step :
    seen (step (presented 0x0A500FF00)) = some (.send, [.reset, .txWrite 0x924924_DB6DB6_924924], false) := by decide

/-- 95 part 2.4: `SHOWC 0, 255, 0, 50`. -/
theorem test_showc_step :
    seen (step (presented 0x13200FF00)) = some (.send, [.reset, .txWrite 0x936934_924924_924924], false) := by decide

/-- 95 part 2.4: `SHOWC 200, 100, 50, 51`. -/
theorem test_showc_scales :
    seen (step (presented 0x133C86432)) = some (.send, [.reset, .txWrite 0x9269A4_934D24_924D34], false) := by decide

/-- 95 part 2.5: a command presented in SEND is held. -/
theorem test_showp_held :
    seen (step { presented 0x000000001 with fsm := .send }) = some (.send, [.reset], true) := by decide

/-- 95 part 2.5: TXFAIL in SEND goes to HALT. -/
theorem test_txfail_step :
    seen (step { State.reset with fsm := .send, schedule := [.txfail] }) =
      some (.halt, [.reset, .txDone .fail], false) := by decide

/-- 95 part 2.5: `tx_done` in HALT is no step. -/
theorem test_txok_in_halt :
    seen (step { State.reset with fsm := .halt, schedule := [.txok] }) = some (.halt, [.reset], false) := by decide

/-- 60 R144: `rst` wins over `tx_done` at one edge, and over a command presented in IDLE. -/
theorem test_reset_wins :
    seen (step { State.reset with fsm := .send, cmd := some 0, schedule := [.edge ⟨true, true, true⟩] }) =
      some (.idle, [.reset, .reset], true) := by decide

/-- 44 R123 (95 part 2.6), R125 (95 P4): the counter wraps after 99; frame 4 is entry 0 at brightness 5. -/
theorem test_driver_frame : advance 49 = 50 ∧ advance 99 = 0 ∧ frameHost 0 = (0, 1) ∧ frameHost 4 = (0, 5) := by decide

/-- 95 P4, frame 0: the driver presents `0x101000000`. -/
theorem test_driver_presents : (driverAction State.reset).cmd = some 0x101000000 := by decide

/-- 43 R110: the line is low before the first sub-bit of `ENCODE(0)`, high at it, and low after the last. -/
theorem test_line_idles_low :
    levelAt (encode 0) (-1) = false ∧ levelAt (encode 0) 0 = true ∧ levelAt (encode 0) 72 = false := by decide

/-! ## The inter-frame gap (70 R157) -/

/-- 95 P2: the held second command starts right after the first write completes. -/
theorem test_gap_none_in_p2 :
    scriptKeepsGaps 50 [.showrgb 255 0 0, .showc 0 255 0 50, .txok, .wait 500, .txok] = false := by decide
/-- A wait during the outstanding write is no gap: the held command starts at TXOK. -/
theorem test_gap_wait_in_send : scriptKeepsGaps 50 [.showrgb 255 0 0, .wait 500, .off, .txok, .txok] = false := by decide
/-- 95 P2's note: the WAIT before the second command is presented. An ignored TXOK does not restart the count (10_state.md R19). -/
theorem test_gap_kept :
    scriptKeepsGaps 50 [.showrgb 255 0 0, .txok, .wait 500, .txok, .showc 0 255 0 50, .txok] = true := by decide
/-- No frame has been on the line before the first one, nor does a RESET put one there. -/
theorem test_gap_before_first_frame : scriptKeepsGaps 50 [.reset, .off] = true := by decide

/-! ## The end of a run (70 R165, 95 P1, P3, P5) -/

/-- Right after the acceptance of `SHOWP 0`. -/
def sending : State := startWrite (encode 0) State.reset

theorem test_run_end_success : runEnd [0] (completeOk sending) = .success := by decide
theorem test_run_end_pending : runEnd [0] sending = .notEnded := by decide
/-- A failed write followed by a reset is no success. -/
theorem test_run_end_after_failure :
    runEnd [0] (completeFail sending) = .faulted ∧ runEnd [0] (resetBlock (completeFail sending)) = .notEnded := by decide
/-- Neither is a write abandoned by a reset, nor a command never accepted. -/
theorem test_run_end_abandoned : runEnd [0] (resetBlock sending) = .notEnded ∧ runEnd [0] State.reset = .notEnded := by decide

/-! ## Witnesses: states and operands that meet the hypotheses of the statements in Certificates/Slice0/Obligations.lean, each clause
at a boundary of its range -/

theorem witness_DecodeOfEncodeIsIdentity :
    (Instr.showp 0xFF 0xFFFFFF).wf = true ∧ (Instr.showc 0 255 0 255).wf = true := by decide
theorem witness_CommandWordFieldsAsTabled :
    (0x0FFFFFFFF : CommandWord).getLsbD 32 = false ∧ (0x100000000 : CommandWord).getLsbD 32 = true := by decide
theorem witness_OnlyCommandWordsDecode : 2 ^ 33 - 1 < 2 ^ 33 ∧ 2 ^ 33 ≤ 2 ^ 33 := by decide
theorem witness_ScriptLinesAssemble :
    lineWf (.showp 0xFFFFFF) = true ∧ lineWf (.showc 255 255 255 255) = true ∧ lineWf (.showrgb 255 0 255) = true ∧
      lineWord .off = some 0 := by decide
theorem witness_ScaleChannelLaws : (99 : Byte).toNat ≤ 99 := by decide
theorem witness_ScaleIsMonotone : (254 : Byte).toNat ≤ (255 : Byte).toNat ∧ (0 : Byte).toNat ≤ (0 : Byte).toNat := by decide
theorem witness_FloatReadingDiffersOnTwelvePairs :
    ((51 : Byte).toNat, (155 : Byte).toNat) ∈ binary64Pairs ∧ ((204 : Byte).toNat, (155 : Byte).toNat) ∈ binary64Pairs ∧
      ((255 : Byte).toNat, (255 : Byte).toNat) ∉ binary64Pairs ∧ (99 : Byte).toNat ≤ 99 := by decide
theorem witness_PackPlacesSingleChannels : (0 : Byte) ≠ 255 := by decide
theorem witness_ScratchPlacesEverySymbol : wScratchWf 72 = true ∧ wScratchWf 136 = true ∧ 0 < 24 ∧ 23 < 24 := by decide
theorem witness_ScratchPadBitsAreZero : wScratchWf 72 = true ∧ 72 ≤ 72 ∧ 72 ≤ 127 := by decide
theorem witness_ScratchOrderIsIrrelevant : (List.range 24).reverse.Perm (List.range 24) := List.reverse_perm _
theorem witness_TrimKeepsTheTrailingNineBytes :
    wScratchWf 72 = true ∧ 8 < 9 ∧ (0 : Byte) ∈ (bytesBE (128 / 8) (scratch 128 0)).take (128 / 8 - 9) := by decide
theorem witness_EncodeClosedForm : 23 < 24 := by decide
theorem witness_EncodeIndependentOfScratchWidth : wScratchWf 72 = true ∧ wScratchWf 200 = true := by decide
theorem witness_EncodeIsInjective : (0 : PackedColor) ≠ 0x800000 := by decide
/-- 95 part 2.3: `ENCODE(0xFFFFFF)` meets both sides of the image's condition. -/
theorem witness_EncodeImageIsTheTwoCodes :
    ∀ i, i < 24 → (0xDB6DB6DB6DB6DB6DB6 : PulseBuffer).getLsbD (3 * i + 2) = true ∧
      (0xDB6DB6DB6DB6DB6DB6 : PulseBuffer).getLsbD (3 * i) = false := by decide
theorem witness_EncodeIsAffine : 0 < 24 ∧ 23 < 24 := by decide
theorem witness_BufferIsBigEndian : 0 < 9 ∧ 8 < 9 := by decide
theorem witness_LineCarriesStreamPositions : 0 < 72 ∧ 71 < 72 ∧ (-1 : Int) < 0 ∧ (72 : Int) ≤ 72 := by decide

theorem witness_ShowpStartsTheWrite :
    State.reset.fsm = .idle ∧ exec (.showp 0xFF 0xFFFFFF) State.reset = .next (startWrite (encode 0xFFFFFF) State.reset) :=
  ⟨rfl, rfl⟩
theorem witness_ShowcStartsTheWrite :
    State.reset.fsm = .idle ∧
      exec (.showc 255 0 255 0) State.reset = .next (startWrite (frame ⟨0, 255, 0⟩ 255) State.reset) :=
  ⟨rfl, rfl⟩

/-- A state after a failed write. -/
def failed : State := completeFail sending

theorem witness_CommandsAreHeldOutsideIdle : sending.fsm ≠ .idle ∧ failed.fsm ≠ .idle := by
  constructor <;> intro h <;> cases h
theorem witness_CommandFrame :
    (∃ t, exec (.showp 0 0) State.reset = .next t) ∧ (∃ t, exec (.showc 0 0 0 0) sending = .next t) :=
  ⟨⟨_, rfl⟩, ⟨_, rfl⟩⟩

theorem witness_StepRunsThePresentedCommand_line :
    ∃ s : State, s.cmd = some 0x13200FF00 ∧ s.fsm = .idle ∧ ∀ p rest, s.schedule ≠ .edge p :: rest :=
  ⟨setCmd (some 0x13200FF00) (setSchedule [.txok] State.reset), rfl, rfl, fun p rest h => by cases h⟩
theorem witness_StepRunsThePresentedCommand_edge :
    ∃ s : State, s.cmd = some 0 ∧ s.fsm = .idle ∧ s.schedule = [.edge (txEdge true)] ∧ (txEdge true).rst = false :=
  ⟨setCmd (some 0) (setSchedule [.edge (txEdge true)] State.reset), rfl, rfl, rfl, rfl⟩
theorem witness_StepRunsThePresentedCommand_fetch : State.reset.fsm = .idle ∧ 0x1FFFFFFFF < 2 ^ 33 := by decide
theorem witness_StepRunsThePresentedCommand_held :
    ∃ s : State, s.cmd = some 0 ∧ s.fsm ≠ .idle ∧ s.schedule = [] :=
  ⟨setCmd (some 0) sending, rfl, (fun h => by cases h), rfl⟩

theorem witness_TxokCompletesTheWrite :
    (∃ s t : State, s.fsm = .send ∧ s.schedule = [.txok] ∧ step s = .next t) ∧
      (∃ s : State, s.fsm = .halt ∧ s.schedule = [.txok]) ∧
      (∃ s : State, s.fsm = .idle ∧ s.cmd = none ∧ s.schedule = [.txok]) :=
  ⟨⟨setSchedule [.txok] sending, _, rfl, rfl, rfl⟩, ⟨setSchedule [.txok] failed, rfl, rfl⟩,
    ⟨setSchedule [.txok] State.reset, rfl, rfl, rfl⟩⟩
theorem witness_TxfailEntersHalt :
    (∃ s t : State, s.fsm = .send ∧ s.schedule = [.txfail] ∧ step s = .next t) ∧
      (∃ s : State, s.fsm = .halt ∧ s.cmd = some 0 ∧ s.schedule = [.txfail]) ∧
      (∃ s : State, s.fsm = .idle ∧ s.cmd = none ∧ s.schedule = [.txfail]) :=
  ⟨⟨setSchedule [.txfail] sending, _, rfl, rfl, rfl⟩, ⟨setCmd (some 0) (setSchedule [.txfail] failed), rfl, rfl, rfl⟩,
    ⟨setSchedule [.txfail] State.reset, rfl, rfl, rfl⟩⟩
theorem witness_ResetPinFromEveryState :
    ∃ (s t : State) (p : EdgePins), p.rst = true ∧ s.schedule = [.edge p] ∧ step s = .next t :=
  ⟨setSchedule [.edge ⟨true, true, false⟩] sending, _, ⟨true, true, false⟩, rfl, rfl, rfl⟩
theorem witness_DeviceResetRestartsTheHost :
    (∃ s : State, s.cmd = none ∧ s.schedule = [.reset]) ∧
      (∃ s : State, s.cmd = some 0 ∧ s.fsm ≠ .idle ∧ s.schedule = [.reset]) :=
  ⟨⟨setSchedule [.reset] State.reset, rfl, rfl⟩,
    ⟨setCmd (some 0) (setSchedule [.reset] failed), rfl, (fun h => by cases h), rfl⟩⟩
theorem witness_HaltIsLeftOnlyByReset :
    (∃ s t : State, s.fsm = .halt ∧ step s = .next t ∧ t.fsm = .halt) ∧
      (∃ s t : State, s.fsm = .halt ∧ step s = .next t ∧ t.fsm = .idle) :=
  ⟨⟨setSchedule [.txok] failed, _, rfl, rfl, rfl⟩, ⟨setSchedule [.reset] failed, _, rfl, rfl, rfl⟩⟩
theorem witness_SimultaneousInputsPriority :
    (∃ p : EdgePins, p.rst = true) ∧
      (∃ (p : EdgePins) (s : State), p.rst = false ∧ p.txDone = true ∧ s.fsm = .send) ∧
      (∃ (p : EdgePins) (s : State), p.rst = false ∧ s.fsm = .idle ∧ s.cmd = some 0) :=
  ⟨⟨⟨true, true, true⟩, rfl⟩, ⟨txEdge true, sending, rfl, rfl, rfl⟩, ⟨txEdge true, setCmd (some 0) State.reset, rfl, rfl, rfl⟩⟩

theorem witness_StepKeepsTheBlockInvariant : ∃ s t : State, BlockInv s ∧ step s = .next t ∧ t.fsm = .send :=
  ⟨presented 0x13200FF00, _, ⟨rfl, fun h => (by cases h), rfl⟩, rfl, rfl⟩
theorem witness_StepKeepsTheHostPairing : ∃ s t : State, hostPairs s ∧ step s = .next t ∧ t.phase = .waiting :=
  ⟨setSchedule [.driver] State.reset, _, ⟨by decide, by decide, by decide⟩, rfl, rfl⟩
theorem witness_PinsFollowFsm : State.reset.fsm = .idle ∧ sending.fsm = .send ∧ failed.fsm = .halt := ⟨rfl, rfl, rfl⟩
theorem witness_FsmTransitions : ∃ s t : State, step s = .next t ∧ t.fsm ≠ s.fsm :=
  ⟨setSchedule [.txfail] sending, _, rfl, fun h => by cases h⟩
theorem witness_HistoryGrowsByAtMostOneEvent : ∃ t, step State.reset = .next t := ⟨_, rfl⟩
theorem witness_BufferStandsWhileOutstanding :
    (∃ s t : State, step s = .next t ∧ t.fsm = .send ∧ s.fsm = .send) ∧
      (∃ s t : State, step s = .next t ∧ t.fsm = .send ∧ s.fsm = .idle) :=
  ⟨⟨sending, _, rfl, rfl, rfl⟩, ⟨presented 0, _, rfl, rfl, rfl⟩⟩
/-- 95 P6: nothing but further lines of the host are to come. -/
theorem witness_OutstandingWriteNeverTimesOut :
    ∃ s : State, s.fsm = .send ∧ s.schedule ≠ [] ∧ ∀ i ∈ s.schedule, mayEndWrite i = false :=
  ⟨setSchedule [.present 0, .wait 500, .edge quietEdge] sending, rfl, (fun h => by cases h), by decide⟩
theorem witness_HeldCommandIsAcceptedAfterTxok :
    ∃ s : State, s.fsm = .send ∧ s.cmd = some 0x13200FF00 ∧ s.schedule = [.txok] ∧
      ∀ p l, ([] : List Input) ≠ .edge p :: l :=
  ⟨setCmd (some 0x13200FF00) (setSchedule [.txok] sending), rfl, rfl, rfl, fun p l h => by cases h⟩
theorem witness_WithdrawnCommandIsLost :
    ∃ s : State, s.fsm = .send ∧ s.cmd = none ∧ s.phase ≠ .panicked ∧ s.schedule = [.present 1, .withdraw] :=
  ⟨setSchedule [.present 1, .withdraw] sending, rfl, rfl, (fun h => by cases h), rfl⟩
/-- 95 P3: a history with a failure and a reset is legal. -/
theorem witness_LegalHistoriesAlternate :
    protocolFrom .idle [.reset, .txWrite 0x92492492_4924DB6DB6, .txDone .fail] = some .halt ∧
      sinceReset [.reset, .txWrite 0, .txDone .fail] = [.txWrite 0] ++ .txDone .fail :: [] := by decide
theorem witness_BrightnessWrapsAtHundred : (99 : Byte).toNat ≤ 99 ∧ (0 : Byte).toNat ≤ 99 := by decide
theorem witness_DriverTakesItsLoopStep (f : HostPhase) :
    ∃ s : State, s.phase = f ∧ s.cmd = none ∧ s.schedule = [.driver] :=
  ⟨setHost 3 99 f (setSchedule [.driver] State.reset), rfl, rfl, rfl⟩
theorem witness_DriverTakesItsLoopStep_held (f : HostPhase) :
    ∃ s : State, s.phase = f ∧ s.cmd = some 0 ∧ s.fsm ≠ .idle ∧ s.schedule = [.driver] :=
  ⟨setHost 3 99 f (setCmd (some 0) (setSchedule [.driver] sending)), rfl, rfl, (fun h => by cases h), rfl⟩
theorem witness_RunEndsAreFinal_success :
    runEnd [] State.reset = .success ∧ runEnd [0] (completeOk sending) = .success ∧ (completeOk sending).schedule = [] ∧
      (completeOk sending).cmd = none ∧ State.reset.phase ≠ .panicked := by decide
theorem witness_RunEndsAreFinal_faulted :
    ∃ s : State, runEnd [0] s = .faulted ∧ s.schedule ≠ [] ∧ ∀ i ∈ s.schedule, resetsBlock i = false :=
  ⟨setSchedule [.txok, .present 1] failed, rfl, (fun h => by cases h), by decide⟩
theorem witness_RunEndsAreFinal_more :
    ∃ s : State, runEnd [] s = .success ∧ s.cmd = none ∧ s.phase ≠ .panicked ∧
      s.schedule = ([0, 0x1FFFFFFFF] : List CommandWord).flatMap (fun cw => [.present cw, .txok]) :=
  ⟨setSchedule [.present 0, .txok, .present 0x1FFFFFFFF, .txok] State.reset, by decide, rfl, (fun h => by cases h), rfl⟩
theorem witness_FrameSequenceClosedForm :
    (∃ s : State, s.phase = .ready ∧ s.cmd = none ∧ (s.idx, advance s.hbr) = frameHost 0 ∧ s.schedule = [.driver]) ∧
      (∃ s : State, s.phase = .waiting ∧ s.cmd = none ∧ s.fsm ≠ .send ∧ (s.idx, s.hbr) = frameHost 3 ∧
        s.schedule = [.driver]) ∧
      (∃ s : State, s.phase = .suspended ∧ s.cmd = none ∧ (s.idx, s.hbr) = frameHost 3 ∧ s.schedule = [.driver]) :=
  ⟨⟨setSchedule [.driver] State.reset, rfl, rfl, rfl, rfl⟩,
    ⟨setHost 3 4 .waiting (setSchedule [.driver] State.reset), rfl, rfl, (fun h => by cases h), by decide, rfl⟩,
    ⟨setHost 3 4 .suspended (setSchedule [.driver] State.reset), rfl, rfl, by decide, rfl⟩⟩
theorem witness_PanicStopsOnlyTheHost :
    (∃ s : State, s.cmd = some 0 ∧ s.fsm ≠ .idle ∧ s.schedule = [.panic]) ∧
      (∃ s : State, s.phase = .panicked ∧ s.cmd = none ∧ s.schedule = [.present 0]) :=
  ⟨⟨setCmd (some 0) (setSchedule [.panic] sending), rfl, (fun h => by cases h), rfl⟩,
    ⟨setSchedule [.present 0] (hostPanic State.reset), rfl, rfl, rfl⟩⟩
theorem witness_HostActionsLeaveTheBlock_present :
    (∃ s : State, s.fsm = .halt ∧ s.cmd = none ∧ s.phase ≠ .panicked ∧ s.schedule = [.present 1]) ∧
      (∃ s : State, s.cmd = some 0 ∧ s.fsm ≠ .idle ∧ s.schedule = [.present 1, .txok]) :=
  ⟨⟨setSchedule [.present 1] failed, rfl, rfl, (fun h => by cases h), rfl⟩,
    ⟨setCmd (some 0) (setSchedule [.present 1, .txok] sending), rfl, (fun h => by cases h), rfl⟩⟩
theorem witness_HostActionsLeaveTheBlock :
    (∃ s t : State, s.cmd = none ∧ s.schedule = [.present 0x1FFFFFFFF] ∧ step s = .next t) ∧
      (∃ s : State, s.fsm ≠ .idle ∧ s.schedule = [.wait 500]) :=
  ⟨⟨setSchedule [.present 0x1FFFFFFFF] State.reset, _, rfl, rfl, rfl⟩,
    ⟨setSchedule [.wait 500] sending, (fun h => by cases h), rfl⟩⟩

end Sys2Proof.Tests
end

/-! PROOFS. What one step does to the block, and to its history read as a protocol (10_state.md R13, R22, R25). -/

namespace Sys2Proof.Machine

/-! ### The five ways a step can treat the block -/

/-- What a step from `s` to `t` does to the block's fields and the LED; the command port, the host, the schedule and the draw counter
are left open. -/
inductive BlockStep (s t : State) : Prop where
  /-- The block is left alone. -/
  | stay (hf : t.fsm = s.fsm) (hb : t.pbuf = s.pbuf) (hh : t.history = s.history) (hl : t.led = s.led)
  /-- A presented command is accepted (43 R101 to R103). -/
  | accept (cw : CommandWord) (hi : s.fsm = .idle) (hc : s.cmd = some cw) (hf : t.fsm = .send)
      (hb : t.pbuf = sentBy (decode cw)) (hh : t.history = s.history ++ [.txWrite t.pbuf]) (hl : t.led = s.led)
  /-- The write completes ok (43 R105). -/
  | ok (hs : s.fsm = .send) (hf : t.fsm = .idle) (hh : t.history = s.history ++ [.txDone .ok])
      (hl : t.led = ledAfter s.pbuf)
  /-- The write fails (43 R106). -/
  | fail (hs : s.fsm = .send) (hf : t.fsm = .halt) (hh : t.history = s.history ++ [.txDone .fail])
      (hl : t.led = .unspecified)
  /-- The block is reset, alone or with the host (70 R150, R152). -/
  | reset (hf : t.fsm = .idle) (hh : t.history = s.history ++ [.reset]) (hl : t.led = ledAfterReset s)

/-- A clock edge treats the block in one of the five ways, whatever the schedule is set to before it. -/
theorem BlockMove.blockStep {rst : Bool} {s u : State} {l : List Input} (h : BlockMove rst (setSchedule l s) u) :
    BlockStep s (tick u) := by
  cases h with
  | stay => exact .stay rfl rfl rfl rfl
  | accept cw hi hc => exact .accept cw hi hc rfl rfl rfl rfl
  | ok hs => exact .ok hs rfl rfl rfl
  | fail hs => exact .fail hs rfl rfl rfl
  | reset hr => exact .reset rfl rfl rfl

/-- An agent outside the block leaves it alone. -/
theorem OutsideMove.blockStep {s u : State} (h : OutsideMove s u) : BlockStep s (tick u) := by
  obtain ⟨hf, hb, hh, hl, -⟩ := h
  exact .stay hf hb hh hl

/-- A turn of the schedule treats the block in one of the five ways. -/
theorem StepMove.blockStep {s u : State} (h : StepMove s u) : BlockStep s (tick u) := by
  cases h with
  | quiet h => exact h.blockStep (l := s.schedule)
  | edge i rest hs hr h => exact h.blockStep
  | line h hi hb hp => exact h.blockStep
  | driver rest hs => exact OutsideMove.blockStep (driverAction_outside (setSchedule rest s))
  | panic rest hs => exact .stay rfl rfl rfl rfl
  | device rest hs => exact .reset rfl rfl rfl

/-- A step that follows a turn of the schedule is that turn, ticked. -/
theorem step_of_runNext {s u : State} (h : runNext s = .next u) : step s = .next (tick u) := by
  rw [step, h, ticked]

/-- Every step treats the block in one of the five ways. -/
theorem step_blockStep {s t : State} (h : step s = .next t) : BlockStep s t := by
  obtain ⟨u, hu, hm⟩ := runNext_move s
  rw [step_of_runNext hu] at h
  obtain rfl := Host.Outcome.next.inj h
  exact hm.blockStep

/-! ### The history as a protocol -/

/-- The buffer a protocol state has outstanding. -/
def Protocol.outstanding : Protocol → Option PulseBuffer
  | .send buf => some buf
  | _ => none

/-- The events a protocol state admits, and where each leads. -/
theorem protocolStep_cases {p q : Protocol} {e : Event} (h : protocolStep p e = some q) :
    (∃ buf, p = .idle ∧ e = .txWrite buf ∧ q = .send buf) ∨
    (∃ buf, p = .send buf ∧ e = .txDone .ok ∧ q = .idle) ∨
    (∃ buf, p = .send buf ∧ e = .txDone .fail ∧ q = .halt) ∨
    (e = .reset ∧ q = .idle) := by
  unfold protocolStep at h
  split at h <;> cases h <;> simp

/-- A failed completion leads to HALT (60 R137). -/
theorem protocolStep_fail {p q : Protocol} (h : protocolStep p (.txDone .fail) = some q) : q = .halt := by
  have hcases : (∃ buf, p = .send buf) ∧ q = .halt := by simpa using protocolStep_cases h
  exact hcases.2

/-- HALT admits `Reset` alone (60 R138). -/
theorem protocolStep_halt {q : Protocol} {e : Event} (h : protocolStep .halt e = some q) : e = .reset := by
  have hcases : e = .reset ∧ q = .idle := by simpa using protocolStep_cases h
  exact hcases.1

/-- `Reset` is admitted by every protocol state (R25). -/
@[simp] theorem protocolStep_reset (p : Protocol) : protocolStep p .reset = some .idle := by
  cases p <;> rfl

/-- A longer history is legal when the shorter one is and its last event is admitted there. -/
theorem protocolFrom_concat (p : Protocol) (h : List Event) (e : Event) :
    protocolFrom p (h ++ [e]) = (protocolFrom p h).bind fun q => protocolStep q e := by
  induction h generalizing p with
  | nil => cases hq : protocolStep p e <;> simp [protocolFrom, hq]
  | cons d h ih => cases hq : protocolStep p d <;> simp [protocolFrom, hq, ih]

/-- A legal history that ends in an event is a legal history followed by an admitted event. -/
theorem protocolFrom_concat_eq_some {p q : Protocol} {h : List Event} {e : Event} :
    protocolFrom p (h ++ [e]) = some q ↔ ∃ r, protocolFrom p h = some r ∧ protocolStep r e = some q := by
  rw [protocolFrom_concat, Option.bind_eq_some_iff]

@[simp] theorem protocolNow_idle {s : State} (h : s.fsm = .idle) : protocolNow s = .idle := by
  simp [protocolNow, h]

@[simp] theorem protocolNow_send {s : State} (h : s.fsm = .send) : protocolNow s = .send s.pbuf := by
  simp [protocolNow, h]

@[simp] theorem protocolNow_halt {s : State} (h : s.fsm = .halt) : protocolNow s = .halt := by
  simp [protocolNow, h]

/-- `protocolNow` reads `FSM` and `PBUF` alone. -/
theorem protocolNow_congr {s t : State} (hf : t.fsm = s.fsm) (hb : t.pbuf = s.pbuf) : protocolNow t = protocolNow s := by
  simp [protocolNow, hf, hb]

/-! ### The LED along a history -/

/-- After an admitted event the LED's reading of the history holds the buffer the protocol holds. -/
theorem lightStep_outstanding {p q : Protocol} {e : Event} (h : protocolStep p e = some q)
    (x : Led × Option PulseBuffer) : (lightStep x e).2 = q.outstanding := by
  rcases protocolStep_cases h with ⟨buf, -, rfl, rfl⟩ | ⟨buf, -, rfl, rfl⟩ | ⟨buf, -, rfl, rfl⟩ | ⟨rfl, rfl⟩ <;> rfl

/-- Along a legal history the LED's reading is the light shown and the buffer outstanding. -/
theorem foldl_lightStep_of_legal {h : List Event} {p : Protocol} (hp : protocolFrom .idle h = some p) :
    h.foldl lightStep (.unspecified, none) = (lightOf h, p.outstanding) := by
  refine Prod.ext rfl ?_
  induction h using List.reverseRecOn with
  | nil =>
    obtain rfl : Protocol.idle = p := Option.some.inj hp
    rfl
  | append_singleton h e ih =>
    obtain ⟨q, -, he⟩ := protocolFrom_concat_eq_some.mp hp
    rw [List.foldl_concat]
    exact lightStep_outstanding he _

/-- One more event after a legal history changes the light as `lightStep` says. -/
theorem lightOf_concat {h : List Event} {p : Protocol} (hp : protocolFrom .idle h = some p) (e : Event) :
    lightOf (h ++ [e]) = (lightStep (lightOf h, p.outstanding) e).1 := by
  rw [lightOf, List.foldl_concat, foldl_lightStep_of_legal hp]

/-- What a reset leaves on the LED is what `lightStep` says of the event. -/
theorem ledAfterReset_eq_lightStep (s : State) :
    ledAfterReset s = (lightStep (s.led, (protocolNow s).outstanding) .reset).1 := by
  cases hf : s.fsm <;> simp [ledAfterReset, busy, protocolNow, Protocol.outstanding, lightStep, hf]

/-! ### The invariant of the block -/

/-- The invariant after a step that records the event `e`: the protocol admits `e` and ends where `t` stands, and the LED moves as
`lightStep` says. -/
theorem BlockInv.of_event {s t : State} {e : Event} (hs : BlockInv s) (hh : t.history = s.history ++ [e])
    (hp : protocolStep (protocolNow s) e = some (protocolNow t)) (hb : t.fsm = .send → ∃ pk, t.pbuf = encode pk)
    (hl : t.led = (lightStep (s.led, (protocolNow s).outstanding) e).1) : BlockInv t := by
  obtain ⟨hlegal, -, hled⟩ := hs
  refine ⟨?_, hb, ?_⟩
  · rw [hh, protocolFrom_concat, hlegal]
    exact hp
  · rw [hh, hl, lightOf_concat hlegal, hled]

/-- Each of the five ways keeps the invariant. -/
theorem BlockStep.keeps_blockInv {s t : State} (h : BlockStep s t) (hs : BlockInv s) : BlockInv t := by
  cases h with
  | stay hf hb hh hl =>
    unfold BlockInv
    rw [protocolNow_congr hf hb, hf, hb, hh, hl]
    exact hs
  | accept cw hi hc hf hb hh hl =>
    refine hs.of_event hh ?_ (fun _ => hb ▸ sentBy_encoding (decode cw)) hl
    rw [protocolNow_idle hi, protocolNow_send hf]
    rfl
  | ok hsend hf hh hl =>
    refine hs.of_event hh ?_ (by simp [hf]) ?_
    · rw [protocolNow_send hsend, protocolNow_idle hf]
      rfl
    · rw [protocolNow_send hsend]
      exact hl
  | fail hsend hf hh hl =>
    refine hs.of_event hh ?_ (by simp [hf]) hl
    rw [protocolNow_send hsend, protocolNow_halt hf]
    rfl
  | reset hf hh hl =>
    refine hs.of_event hh ?_ (by simp [hf]) (hl.trans (ledAfterReset_eq_lightStep s))
    rw [protocolNow_idle hf, protocolStep_reset]

/-- Settles O43: a step treats the block in one of five ways, and each keeps the invariant. -/
theorem stepKeepsTheBlockInvariant : Obligations.StepKeepsTheBlockInvariant :=
  fun _ _ hs h => (step_blockStep h).keeps_blockInv hs

/-! ### Safety of one step -/

/-- Settles O48: of the five ways, the four that can change `FSM` each record the event of their transition. -/
theorem fsmTransitions : Obligations.FsmTransitions := by
  intro s t h hne
  cases step_blockStep h with
  | stay hf => exact absurd hf hne
  | accept cw hi hc hf hb hh => exact .inl ⟨hi, hf, by simp [hc], hh⟩
  | ok hs hf hh => exact .inr (.inl ⟨hs, hf, hh⟩)
  | fail hs hf hh => exact .inr (.inr (.inl ⟨hs, hf, hh⟩))
  | reset hf hh => exact .inr (.inr (.inr ⟨hf, hh⟩))

/-- Settles O49: each of the five ways appends one event or none. -/
theorem historyGrowsByAtMostOneEvent : Obligations.HistoryGrowsByAtMostOneEvent := by
  intro s t h
  cases step_blockStep h with
  | stay hf hb hh => exact .inl hh
  | accept cw hi hc hf hb hh => exact .inr ⟨_, hh⟩
  | ok hs hf hh => exact .inr ⟨_, hh⟩
  | fail hs hf hh => exact .inr ⟨_, hh⟩
  | reset hf hh => exact .inr ⟨_, hh⟩

/-- Settles O50: only a step that leaves the block alone or accepts a command ends in SEND. -/
theorem bufferStandsWhileOutstanding : Obligations.BufferStandsWhileOutstanding := by
  intro s t h hsend
  cases step_blockStep h with
  | stay hf hb hh => exact .inl ⟨hf ▸ hsend, hb, hh⟩
  | accept cw hi hc hf hb hh => exact .inr ⟨hi, hh⟩
  | ok hs hf => simp [hf] at hsend
  | fail hs hf => simp [hf] at hsend
  | reset hf => simp [hf] at hsend

/-! ### Legal histories -/

/-- A `Reset` starts the events since the last reset afresh; any other event joins them. -/
theorem sinceReset_concat (h : List Event) (e : Event) :
    sinceReset (h ++ [e]) = if e = .reset then [] else sinceReset h ++ [e] := by
  by_cases he : e = .reset <;> simp [sinceReset, he]

/-- In a legal history the writes since the last reset are the completions and, in SEND, one more. -/
theorem countP_sinceReset_of_legal {h : List Event} {p : Protocol} (hp : protocolFrom .idle h = some p) :
    (sinceReset h).countP isTxWrite = (sinceReset h).countP isTxDone + p.outstanding.isSome.toNat := by
  induction h using List.reverseRecOn generalizing p with
  | nil =>
    obtain rfl : Protocol.idle = p := Option.some.inj hp
    rfl
  | append_singleton h e ih =>
    obtain ⟨q, hq, he⟩ := protocolFrom_concat_eq_some.mp hp
    have hcount := ih hq
    rcases protocolStep_cases he with ⟨buf, rfl, rfl, rfl⟩ | ⟨buf, rfl, rfl, rfl⟩ | ⟨buf, rfl, rfl, rfl⟩ | ⟨rfl, rfl⟩
    · simpa [sinceReset_concat, Protocol.outstanding, isTxWrite, isTxDone] using hcount
    · simpa [sinceReset_concat, Protocol.outstanding, isTxWrite, isTxDone] using hcount
    · simpa [sinceReset_concat, Protocol.outstanding, isTxWrite, isTxDone] using hcount
    · simp [sinceReset_concat, Protocol.outstanding]

/-- In a legal history nothing but a `Reset` follows a failed completion. -/
theorem fail_last_of_legal {h a b : List Event} {p : Protocol} (hp : protocolFrom .idle h = some p)
    (hf : sinceReset h = a ++ .txDone .fail :: b) : b = [] ∧ p = .halt := by
  induction h using List.reverseRecOn generalizing p b with
  | nil => simp [sinceReset] at hf
  | append_singleton h e ih =>
    obtain ⟨q, hq, he⟩ := protocolFrom_concat_eq_some.mp hp
    rw [sinceReset_concat] at hf
    split at hf
    · simp at hf
    next hne =>
    rcases b.eq_nil_or_concat' with rfl | ⟨c, d, rfl⟩
    · obtain ⟨-, rfl⟩ := List.append_singleton_inj.mp hf
      exact ⟨rfl, protocolStep_fail he⟩
    · rw [← List.cons_append, ← List.append_assoc] at hf
      obtain ⟨hshort, rfl⟩ := List.append_singleton_inj.mp hf
      obtain ⟨-, rfl⟩ := ih hq hshort
      exact absurd (protocolStep_halt he) hne

/-- Settles O54, both parts by induction over the history from its last event. -/
theorem legalHistoriesAlternate : Obligations.LegalHistoriesAlternate := by
  intro h p hp
  refine ⟨?_, fun a b hf => fail_last_of_legal hp hf⟩
  rw [countP_sinceReset_of_legal hp]
  cases p <;> rfl

/-! ### What the host does by itself -/

/-- With the port empty, or `FSM` not IDLE, no command is accepted before the next line. -/
theorem acceptsFirst_eq_false {s : State} (h : s.cmd = none ∨ s.fsm ≠ .idle) : acceptsFirst s = false := by
  rcases h with h | h <;> simp [acceptsFirst, cmdReady, h]

/-- A line that has to wait is left on the schedule: only the draw counter advances. -/
theorem step_line_waits {s : State} {i : Input} {rest : List Input} (hc : s.cmd = none ∨ s.fsm ≠ .idle)
    (hs : s.schedule = i :: rest) (he : ∀ p, i ≠ .edge p) (hw : mustWait i s = true) : step s = .next (tick s) :=
  step_of_runNext (by rw [runNext_line hs he (acceptsFirst_eq_false hc), if_pos hw])

/-- A line whose turn has come, and that need not wait, is run. -/
theorem step_line_runs {s u : State} {i : Input} {rest : List Input} (hc : s.cmd = none ∨ s.fsm ≠ .idle)
    (hs : s.schedule = i :: rest) (he : ∀ p, i ≠ .edge p) (hw : mustWait i s = false)
    (hu : runInput i (setSchedule rest s) = .next u) : step s = .next (tick u) :=
  step_of_runNext (by rw [runNext_line hs he (acceptsFirst_eq_false hc), hw, if_neg Bool.false_ne_true, hu])

/-- Putting a word on the port is no move of the block. -/
theorem runInput_present_outside (cw : CommandWord) (s : State) :
    ∃ u, runInput (.present cw) s = .next u ∧ OutsideMove s u := by
  refine ⟨_, rfl, ?_⟩
  split
  · exact OutsideMove.refl s
  · exact ⟨rfl, rfl, rfl, rfl, rfl⟩

/-- What the host does by itself is no move of the block (44 R129). -/
theorem runInput_host_outside {i : Input} (hi : i = .withdraw ∨ i = .driver ∨ i = .panic ∨ ∃ cw, i = .present cw)
    (s : State) : ∃ u, runInput i s = .next u ∧ OutsideMove s u := by
  rcases hi with rfl | rfl | rfl | ⟨cw, rfl⟩
  · exact ⟨_, rfl, rfl, rfl, rfl, rfl, rfl⟩
  · exact ⟨_, rfl, driverAction_outside s⟩
  · exact ⟨_, rfl, rfl, rfl, rfl, rfl, rfl⟩
  · exact runInput_present_outside cw s

/-- A line of the host, run or waiting, leaves the block and the LED alone. -/
theorem step_host_frame {s t : State} {i : Input} {rest : List Input} (hc : s.cmd = none ∨ s.fsm ≠ .idle)
    (hs : s.schedule = i :: rest) (hi : i = .withdraw ∨ i = .driver ∨ i = .panic ∨ ∃ cw, i = .present cw)
    (h : step s = .next t) : t.fsm = s.fsm ∧ t.pbuf = s.pbuf ∧ t.history = s.history ∧ t.led = s.led := by
  have he : ∀ p, i ≠ .edge p := by
    rintro p rfl
    simp at hi
  cases hw : mustWait i s with
  | true =>
    rw [step_line_waits hc hs he hw] at h
    obtain rfl := Host.Outcome.next.inj h
    exact ⟨rfl, rfl, rfl, rfl⟩
  | false =>
    obtain ⟨u, hu, hf, hb, hh, hl, -⟩ := runInput_host_outside hi (setSchedule rest s)
    rw [step_line_runs hc hs he hw hu] at h
    obtain rfl := Host.Outcome.next.inj h
    exact ⟨hf, hb, hh, hl⟩

/-- Settles O60: the lines in question are never taken over by an acceptance, and run or wait as they stand. -/
theorem hostActionsLeaveTheBlock : Obligations.HostActionsLeaveTheBlock := by
  refine ⟨fun s t i rest hc hs hi h => step_host_frame hc hs hi h, ?_, ?_, ?_⟩
  · rintro s i rest hc hs (rfl | ⟨n, rfl⟩)
    · exact step_line_runs hc hs (by simp) rfl rfl
    · exact step_line_runs hc hs (by simp) rfl rfl
  · intro s cw rest hc hphase hs
    have hrun : runInput (.present cw) (setSchedule rest s) = .next (setCmd (some cw) (setSchedule rest s)) := by
      simp [runInput, hphase]
    exact step_line_runs (.inl hc) hs (by simp) (by simp [mustWait, hc]) hrun
  · intro s cw held rest hc hf hs
    exact step_line_waits (.inr hf) hs (by simp) (by simp [mustWait, hc])

/-! ### Reset and the pins -/

/-- Settles O45: both invariants hold of the reset state by its values. -/
theorem resetMeetsTheInvariants : Obligations.ResetMeetsTheInvariants := by
  refine ⟨⟨rfl, fun h => ?_, rfl⟩, by decide, fun _ => rfl, fun h => ?_⟩
  · cases h
  · rcases h with h | h <;> cases h

/-- Settles O46: each value is the one `State.reset` writes. -/
theorem resetValues : Obligations.ResetValues :=
  ⟨rfl, rfl, rfl, rfl, rfl, rfl, rfl, rfl⟩

/-- Settles O47: every pin compares `FSM` with one state, and `tx_data` is `PBUF` while `tx_valid` is 1. -/
theorem pinsFollowFsm : Obligations.PinsFollowFsm := by
  intro s
  refine ⟨fun h => ?_, fun h => ⟨?_, ?_⟩, fun h => ?_⟩
  · simp [fsmCode, cmdReady, txValid, busy, halted, h]
  · simp [fsmCode, cmdReady, txValid, busy, halted, h]
  · simp [txData, txValid, h]
  · simp [fsmCode, cmdReady, txValid, busy, halted, h]

end Sys2Proof.Machine

/-! PROOFS. The 9 bytes of the buffer and the serial line read bit by bit (20_memory.md R31 to R33, 43_commands_and_transport.md R108 to
R110). -/

namespace Sys2Proof.Machine

/-! ### The bytes of a buffer -/

/-- Bit `i` of byte `k` stands at bit `64 - 8 * k + i` of the buffer. -/
@[simp] theorem bufByte_getLsbD (buf : PulseBuffer) (k i : Nat) :
    (bufByte buf k).getLsbD i = (decide (i < 8) && buf.getLsbD (64 - 8 * k + i)) :=
  BitVec.getLsbD_extractLsb' ..

@[simp] theorem bufBytes_length (buf : PulseBuffer) : (bufBytes buf).length = 9 := by
  simp [bufBytes]

theorem bufBytes_getElem? (buf : PulseBuffer) {k : Nat} (hk : k < 9) : (bufBytes buf)[k]? = some (bufByte buf k) := by
  simp [bufBytes, hk]

/-- One byte more moves the bytes before it up by 8 bits. -/
theorem bufOfBytes_concat (l : List Byte) (b : Byte) :
    bufOfBytes (l ++ [b]) = (bufOfBytes l <<< 8) ||| b.setWidth 72 :=
  List.foldl_concat ..

/-- Of the buffer made of any bytes, bit `j` is bit `j % 8` of the byte `j / 8` places before the last one. -/
theorem bufOfBytes_getLsbD (l : List Byte) {j : Nat} (hj : j < 72) :
    (bufOfBytes l).getLsbD j = (l.reverse.getD (j / 8) 0).getLsbD (j % 8) := by
  induction l using List.reverseRecOn generalizing j with
  | nil => simp [bufOfBytes]
  | append_singleton l b ih =>
    rw [bufOfBytes_concat, List.reverse_concat]
    by_cases hlast : j < 8
    · simp [hj, hlast, Nat.div_eq_of_lt, Nat.mod_eq_of_lt]
    · have hdiv : j / 8 = (j - 8) / 8 + 1 := by omega
      have hmod : j % 8 = (j - 8) % 8 := by omega
      have hhigh : b.getLsbD j = false := BitVec.getLsbD_of_ge b j (by omega)
      rw [BitVec.getLsbD_or, BitVec.getLsbD_shiftLeft, BitVec.getLsbD_setWidth, ih (by omega), hdiv, hmod,
        List.getD_cons_succ]
      simp [hj, hlast, hhigh]

/-- A buffer is made of its bytes. -/
theorem bufOfBytes_bufBytes (buf : PulseBuffer) : bufOfBytes (bufBytes buf) = buf := by
  refine BitVec.eq_of_getLsbD_eq fun j hj => ?_
  have hbyte : (bufBytes buf).reverse.getD (j / 8) 0 = bufByte buf (8 - j / 8) := by
    rw [List.getD_eq_getElem?_getD, List.getElem?_reverse (by rw [bufBytes_length]; omega), bufBytes_length,
      bufBytes_getElem? buf (by omega), Option.getD_some]
  have hpos : 64 - 8 * (8 - j / 8) + j % 8 = j := by omega
  rw [bufOfBytes_getLsbD _ hj, hbyte, bufByte_getLsbD, hpos, decide_eq_true (Nat.mod_lt j (by decide)), Bool.true_and]

/-- Settles O26: the bytes are listed by index, and the round trip is read bit by bit. -/
theorem bufferIsBigEndian : Obligations.BufferIsBigEndian :=
  fun buf => ⟨bufBytes_length buf, fun _ hk => bufBytes_getElem? buf hk, bufOfBytes_bufBytes buf⟩

/-! ### The line -/

@[simp] theorem byteOnLine_length (b : Byte) : (byteOnLine b).length = 8 := by
  simp [byteOnLine]

theorem byteOnLine_getElem? (b : Byte) {j : Nat} (hj : j < 8) : (byteOnLine b)[j]? = some (b.getLsbD (7 - j)) := by
  simp [byteOnLine, hj]

/-- Of any bytes on the line back to back, sub-bit `p` is bit `7 - p % 8` of byte `p / 8`. -/
theorem flatMap_byteOnLine_getElem? (l : List Byte) (p : Nat) :
    (l.flatMap byteOnLine)[p]? = l[p / 8]?.map fun b => b.getLsbD (7 - p % 8) := by
  induction l generalizing p with
  | nil => simp
  | cons b l ih =>
    rw [List.flatMap_cons]
    by_cases hfirst : p < 8
    · rw [List.getElem?_append_left (by simpa using hfirst), byteOnLine_getElem? b hfirst, Nat.div_eq_of_lt hfirst,
        Nat.mod_eq_of_lt hfirst]
      rfl
    · have hdiv : p / 8 = (p - 8) / 8 + 1 := by omega
      have hmod : p % 8 = (p - 8) % 8 := by omega
      rw [List.getElem?_append_right (by simpa using hfirst), byteOnLine_length, ih, hdiv, hmod, List.getElem?_cons_succ]

@[simp] theorem subBits_length (buf : PulseBuffer) : (subBits buf).length = 72 := by
  simp [subBits, bufBytes, Function.comp_def]

/-- Stream position `p` of R33 is bit `71 - p` of the buffer. -/
theorem bufByte_streamPosition (buf : PulseBuffer) {p : Nat} (hp : p < 72) :
    (bufByte buf (p / 8)).getLsbD (7 - p % 8) = buf.getLsbD (71 - p) := by
  have hbit : 7 - p % 8 < 8 := by omega
  have hpos : 64 - 8 * (p / 8) + (7 - p % 8) = 71 - p := by omega
  rw [bufByte_getLsbD, hpos, decide_eq_true hbit, Bool.true_and]

/-- Sub-bit `p` on the line is stream position `p`. -/
theorem subBits_getElem? (buf : PulseBuffer) {p : Nat} (hp : p < 72) :
    (subBits buf)[p]? = some (buf.getLsbD (71 - p)) := by
  rw [subBits, flatMap_byteOnLine_getElem?, bufBytes_getElem? buf (by omega), Option.map_some,
    bufByte_streamPosition buf hp]

/-- From the first sub-bit on, the level is the train's, and low after it. -/
theorem levelAt_natCast (buf : PulseBuffer) (t : Nat) : levelAt buf (t : Int) = (subBits buf)[t]?.getD idleLevel :=
  List.getD_eq_getElem?_getD ..

/-- Around a frame the line is low (R110). -/
theorem levelAt_outside (buf : PulseBuffer) {t : Int} (ht : t < 0 ∨ 72 ≤ t) : levelAt buf t = idleLevel := by
  cases t with
  | ofNat n =>
    have hn : 72 ≤ n := by
      rw [Int.ofNat_eq_natCast] at ht
      omega
    exact (levelAt_natCast buf n).trans (by simp [hn])
  | negSucc n => rfl

/-- Settles O27: the sub-bits are the bytes' bits in order, which are the stream positions, and there are no others. -/
theorem lineCarriesStreamPositions : Obligations.LineCarriesStreamPositions := by
  intro buf
  refine ⟨subBits_length buf, fun p hp => ⟨subBits_getElem? buf hp, bufByte_streamPosition buf hp, ?_⟩,
    fun t => levelAt_outside buf⟩
  rw [levelAt_natCast, subBits_getElem? buf hp, Option.getD_some]

end Sys2Proof.Machine

/-! PROOFS. The command word, the script lines that name it, and the line RESET (30_encoding.md R54 to R60). -/

namespace Sys2Proof

/-! ### The decoder reads `CW[32]`, then the fields -/

/-- A word whose bit 32 is 0 is SHOWP (R56). -/
theorem decode_of_opField_false {cw : CommandWord} (h : opField cw = false) :
    decode cw = .showp (topField cw) (pkField cw) :=
  if_neg (by simp [h])

/-- A word whose bit 32 is 1 is SHOWC (R57). -/
theorem decode_of_opField_true {cw : CommandWord} (h : opField cw = true) :
    decode cw = .showc (topField cw) (rField cw) (gField cw) (bField cw) :=
  if_pos h

/-- Settles O3: the fields are the bits the tables give by definition. -/
theorem commandWordFieldsAsTabled : Obligations.CommandWordFieldsAsTabled :=
  fun _ => ⟨decode_of_opField_false, decode_of_opField_true⟩

/-- Settles O4, by evaluating the decoder on the five words. -/
theorem sampleWordsDecode : Obligations.SampleWordsDecode := by
  unfold Obligations.SampleWordsDecode
  decide

/-! ### Each field read back from a command's word -/

@[simp] theorem topField_encodeWord_showp (z : Byte) (pk : PackedColor) : topField (encodeWord (.showp z pk)) = z := by
  rw [topField, encodeWord, BitVec.extractLsb'_append_eq_of_le (Nat.le_refl 24)]
  exact BitVec.extractLsb'_append_eq_right

@[simp] theorem pkField_encodeWord_showp (z : Byte) (pk : PackedColor) : pkField (encodeWord (.showp z pk)) = pk :=
  BitVec.extractLsb'_append_eq_right

@[simp] theorem topField_encodeWord_showc (br r g b : Byte) : topField (encodeWord (.showc br r g b)) = br := by
  rw [topField, encodeWord, BitVec.extractLsb'_append_eq_of_le (by decide : 8 ≤ 24),
    BitVec.extractLsb'_append_eq_of_le (by decide : 8 ≤ 16), BitVec.extractLsb'_append_eq_of_le (Nat.le_refl 8)]
  exact BitVec.extractLsb'_append_eq_right

@[simp] theorem rField_encodeWord_showc (br r g b : Byte) : rField (encodeWord (.showc br r g b)) = r := by
  rw [rField, encodeWord, BitVec.extractLsb'_append_eq_of_le (by decide : 8 ≤ 16),
    BitVec.extractLsb'_append_eq_of_le (Nat.le_refl 8)]
  exact BitVec.extractLsb'_append_eq_right

@[simp] theorem gField_encodeWord_showc (br r g b : Byte) : gField (encodeWord (.showc br r g b)) = g := by
  rw [gField, encodeWord, BitVec.extractLsb'_append_eq_of_le (Nat.le_refl 8)]
  exact BitVec.extractLsb'_append_eq_right

@[simp] theorem bField_encodeWord_showc (br r g b : Byte) : bField (encodeWord (.showc br r g b)) = b :=
  BitVec.extractLsb'_append_eq_right

/-- The decoder is a left inverse of the encoder: bit 32 selects the command's own operation, and every field stands where the
decoder reads it. -/
theorem decode_encodeWord (i : Instr) : decode (encodeWord i) = i := by
  cases i with
  | showp z pk =>
    rw [decode_of_opField_false (Laws.OpSelect.showp z pk), topField_encodeWord_showp, pkField_encodeWord_showp]
  | showc br r g b =>
    rw [decode_of_opField_true (Laws.OpSelect.showc br r g b), topField_encodeWord_showc, rField_encodeWord_showc,
      gField_encodeWord_showc, bField_encodeWord_showc]

/-- Settles O1: `decode_encodeWord`, which no command's legality is needed for. -/
theorem decodeOfEncodeIsIdentity : Obligations.DecodeOfEncodeIsIdentity :=
  fun i _ => decode_encodeWord i

/-! ### Every word is rebuilt from its fields -/

/-- Every command is legal (R58). -/
@[simp] theorem Instr.wf_eq_true (i : Instr) : i.wf = true := by
  cases i <;> rfl

/-- Bit 32 as the one-bit field in front of the argument. -/
theorem ofBool_opField (cw : CommandWord) : BitVec.ofBool (opField cw) = cw.extractLsb' 32 1 := by
  refine BitVec.eq_of_getLsbD_eq fun i hi => ?_
  obtain rfl : i = 0 := by omega
  simp [opField]

/-- SHOWP's fields tile the word. -/
theorem fields_append_showp (cw : CommandWord) : BitVec.ofBool (opField cw) ++ topField cw ++ pkField cw = cw := by
  rw [ofBool_opField, topField, pkField, BitVec.extractLsb'_append_extractLsb'_eq_extractLsb' (rfl : 32 = 24 + 8),
    BitVec.extractLsb'_append_extractLsb'_eq_extractLsb' (rfl : 24 = 0 + 24)]
  exact BitVec.extractLsb'_eq_self

/-- SHOWC's fields tile the word. -/
theorem fields_append_showc (cw : CommandWord) :
    BitVec.ofBool (opField cw) ++ topField cw ++ rField cw ++ gField cw ++ bField cw = cw := by
  rw [ofBool_opField, topField, rField, gField, bField,
    BitVec.extractLsb'_append_extractLsb'_eq_extractLsb' (rfl : 32 = 24 + 8),
    BitVec.extractLsb'_append_extractLsb'_eq_extractLsb' (rfl : 24 = 16 + 8),
    BitVec.extractLsb'_append_extractLsb'_eq_extractLsb' (rfl : 16 = 8 + 8),
    BitVec.extractLsb'_append_extractLsb'_eq_extractLsb' (rfl : 8 = 0 + 8)]
  exact BitVec.extractLsb'_eq_self

/-- The encoder is a left inverse of the decoder: the fields the decoder reads tile the word, `z` of SHOWP included. -/
theorem encodeWord_decode (cw : CommandWord) : encodeWord (decode cw) = cw := by
  cases hop : opField cw with
  | false =>
    have htile := fields_append_showp cw
    rw [hop] at htile
    rw [decode_of_opField_false hop]
    exact htile
  | true =>
    have htile := fields_append_showc cw
    rw [hop] at htile
    rw [decode_of_opField_true hop]
    exact htile

/-- Settles O2: no field value is reserved, and the fields tile the word. -/
theorem everyWordIsACommand : Obligations.EveryWordIsACommand :=
  fun cw => ⟨Instr.wf_eq_true _, encodeWord_decode cw⟩

end Sys2Proof

namespace Sys2Proof.Machine

/-! ### Script lines -/

/-- SHOWP's word as a number (R56). -/
theorem encodeWord_showp_toNat (z : Byte) (pk : PackedColor) :
    (encodeWord (.showp z pk)).toNat = (z.toNat <<< 24) ||| pk.toNat := by
  rw [encodeWord, BitVec.toNat_append, BitVec.toNat_append]
  simp

/-- SHOWC's word as a number is the one R60 writes. -/
theorem encodeWord_showc_toNat (br r g b : Byte) :
    (encodeWord (.showc br r g b)).toNat = showcNumber r.toNat g.toNat b.toNat br.toNat := by
  rw [encodeWord, showcNumber, BitVec.toNat_append, BitVec.toNat_append, BitVec.toNat_append, BitVec.toNat_append]
  simp only [Nat.shiftLeft_or_distrib, ← Nat.shiftLeft_add]
  rfl

/-- A word is given by its number. -/
theorem ofNat_eq_of_toNat {n : Nat} {cw : CommandWord} (h : cw.toNat = n) : BitVec.ofNat 33 n = cw := by
  rw [← h, BitVec.ofNat_toNat, BitVec.setWidth_eq]

/-- A packed colour in range, as a number, is the word of its SHOWP. -/
theorem ofNat_eq_encodeWord_showp {pk : Nat} (h : pk < 2 ^ 24) :
    BitVec.ofNat 33 pk = encodeWord (.showp 0 (BitVec.ofNat 24 pk)) :=
  ofNat_eq_of_toNat (by simpa [encodeWord_showp_toNat] using h)

/-- The number R60 writes for operands in range is the word of their SHOWC. -/
theorem ofNat_showcNumber {r g b br : Nat} (hr : r < 2 ^ 8) (hg : g < 2 ^ 8) (hb : b < 2 ^ 8) (hbr : br < 2 ^ 8) :
    BitVec.ofNat 33 (showcNumber r g b br) =
      encodeWord (.showc (BitVec.ofNat 8 br) (BitVec.ofNat 8 r) (BitVec.ofNat 8 g) (BitVec.ofNat 8 b)) :=
  ofNat_eq_of_toNat (by
    rw [encodeWord_showc_toNat]
    simp only [BitVec.toNat_ofNat, Nat.mod_eq_of_lt hr, Nat.mod_eq_of_lt hg, Nat.mod_eq_of_lt hb, Nat.mod_eq_of_lt hbr])

/-- Only `present` gives a word. -/
theorem inputWord_eq_some {i : Input} {cw : CommandWord} (h : inputWord i = some cw) : i = .present cw := by
  unfold inputWord at h
  split at h
  · rw [Option.some.inj h]
  · cases h

/-- Settles O6: the number of a command line is its command's word as a number; the other lines hold by definition. -/
theorem scriptLinesAssemble : Obligations.ScriptLinesAssemble := by
  refine ⟨fun pk h => ?_, fun r g b br h => ?_, fun r g b _ => rfl, rfl, fun l cw => inputWord_eq_some,
    ⟨rfl, rfl, rfl, fun n => rfl⟩, fun ls s => rfl⟩
  · have hpk : pk ≤ 0xFFFFFF := by simpa [lineWf] using h
    exact congrArg some (ofNat_eq_encodeWord_showp (by omega))
  · obtain ⟨⟨⟨hr, hg⟩, hb⟩, hbr⟩ : ((r ≤ 255 ∧ g ≤ 255) ∧ b ≤ 255) ∧ br ≤ 255 := by simpa [lineWf] using h
    exact congrArg some (ofNat_showcNumber (by omega) (by omega) (by omega) (by omega))

/-! ### The device reset -/

/-- What a reset leaves on the LED, by `FSM`. -/
theorem ledAfterReset_eq_ite (s : State) : ledAfterReset s = if s.fsm = .send then .unspecified else s.led := by
  simp [ledAfterReset, busy]

/-- Settles O39: the line is run as `resetDevice`, and `PBUF` takes the free draw. -/
theorem deviceResetRestartsTheHost : Obligations.DeviceResetRestartsTheHost := by
  intro s rest hc hs
  refine ⟨Config.freePbuf s.draws, ?_⟩
  rw [step_line_runs hc hs (by simp) rfl rfl, resetDevice_eq, ← ledAfterReset_eq_ite]
  rfl

end Sys2Proof.Machine

/-! PROOFS. SCALE: one channel as an integer quotient, its laws, and the tabulated 64-bit reading (40_scale.md R66, R68, R70). -/

namespace Sys2Proof.Machine

/-! ### One channel -/

/-- The 8 bits lose nothing of the quotient (R66, R68 (a)). -/
@[simp] theorem scaleChannel_toNat (c br : Byte) : (scaleChannel c br).toNat = c.toNat * br.toNat / 255 :=
  Nat.mod_eq_of_lt (scale_quotient_lt c br)

/-- Settles O7: each channel is `scaleChannel_toNat`; the worked example of R66 is evaluated. -/
theorem scaleFloorsEachChannel : Obligations.ScaleFloorsEachChannel :=
  ⟨fun c br => ⟨scaleChannel_toNat c.r br, scaleChannel_toNat c.g br, scaleChannel_toNat c.b br⟩, by decide⟩

theorem scaleChannel_comm (c br : Byte) : scaleChannel c br = scaleChannel br c :=
  BitVec.eq_of_toNat_eq (by rw [scaleChannel_toNat, scaleChannel_toNat, Nat.mul_comm])

theorem scaleChannel_le_left (c br : Byte) : (scaleChannel c br).toNat ≤ c.toNat := by
  have hbr : br.toNat ≤ 255 := Nat.le_of_lt_succ br.isLt
  calc (scaleChannel c br).toNat = c.toNat * br.toNat / 255 := scaleChannel_toNat c br
    _ ≤ c.toNat * 255 / 255 := Nat.div_le_div_right (Nat.mul_le_mul_left _ hbr)
    _ = c.toNat := Nat.mul_div_cancel _ (by decide)

theorem scaleChannel_le_right (c br : Byte) : (scaleChannel c br).toNat ≤ br.toNat :=
  scaleChannel_comm c br ▸ scaleChannel_le_left br c

@[simp] theorem scaleChannel_zero (c : Byte) : scaleChannel c 0 = 0 :=
  BitVec.eq_of_toNat_eq (by simp)

/-- Full brightness is the identity: `c * 255 / 255 = c` (R68 (d)). -/
@[simp] theorem scaleChannel_full (c : Byte) : scaleChannel c 255 = c :=
  BitVec.eq_of_toNat_eq (by simp)

/-- The rounding is down: only a product of 255 or more is not rounded to 0 (R68 (g)). -/
theorem one_le_scaleChannel_iff (c br : Byte) : 1 ≤ (scaleChannel c br).toNat ↔ 255 ≤ c.toNat * br.toNat := by
  rw [scaleChannel_toNat, Nat.le_div_iff_mul_le (by decide), Nat.one_mul]

/-- Settles O8: each law is proved in one argument, and symmetry gives it in the other. -/
theorem scaleChannelLaws : Obligations.ScaleChannelLaws := by
  intro c br
  have hfits : c.toNat * br.toNat / 255 ≤ 255 := Nat.le_of_lt_succ (scale_quotient_lt c br)
  exact ⟨hfits, scaleChannel_le_left c br, scaleChannel_le_right c br,
    scaleChannel_zero c, scaleChannel_comm 0 br ▸ scaleChannel_zero br,
    scaleChannel_full c, scaleChannel_comm 255 br ▸ scaleChannel_full br,
    one_le_scaleChannel_iff c br, scaleChannel_comm c br, (scaleChannel_le_right c br).trans⟩

/-- Settles O9: the product does not decrease in either factor, nor the quotient in the product. -/
theorem scaleIsMonotone : Obligations.ScaleIsMonotone := by
  intro c c' br br' hc hbr
  simpa only [scaleChannel_toNat] using Nat.div_le_div_right (Nat.mul_le_mul hc hbr)

/-! ### The tabulated 64-bit reading -/

/-- What the twelve pairs share (R70 (b), (c)): a product that is a positive multiple of 255, and a brightness of 147 or more. -/
theorem binary64Pairs_spec {p : Nat × Nat} (h : p ∈ binary64Pairs) :
    p.1 * p.2 % 255 = 0 ∧ 255 ≤ p.1 * p.2 ∧ 147 ≤ p.2 := by
  have hall : ∀ q ∈ binary64Pairs, q.1 * q.2 % 255 = 0 ∧ 255 ≤ q.1 * q.2 ∧ 147 ≤ q.2 := by decide
  exact hall p h

theorem scaleChannelBinary64_of_mem {c br : Byte} (h : (c.toNat, br.toNat) ∈ binary64Pairs) :
    scaleChannelBinary64 c br = scaleChannel c br - 1 :=
  if_pos h

theorem scaleChannelBinary64_of_notMem {c br : Byte} (h : (c.toNat, br.toNat) ∉ binary64Pairs) :
    scaleChannelBinary64 c br = scaleChannel c br :=
  if_neg h

/-- Settles O10: on a pair of the table the channel is at least 1, so taking one away does not wrap; the driver's brightness is below
every brightness of the table. -/
theorem floatReadingDiffersOnTwelvePairs : Obligations.FloatReadingDiffersOnTwelvePairs := by
  refine ⟨fun c br hmem => ?_, fun c br => scaleChannelBinary64_of_notMem, fun c br hbr => ?_⟩
  · obtain ⟨hmod, hprod, -⟩ := binary64Pairs_spec hmem
    have hpos : 1 ≤ (scaleChannel c br).toNat := (one_le_scaleChannel_iff c br).2 hprod
    have hsub : (scaleChannel c br - 1).toNat = (scaleChannel c br).toNat - 1 := BitVec.toNat_sub_of_le hpos
    rw [scaleChannelBinary64_of_mem hmem, hsub]
    exact ⟨Nat.sub_add_cancel hpos, hmod⟩
  · refine scaleChannelBinary64_of_notMem fun hmem => ?_
    obtain ⟨-, -, hlow⟩ := binary64Pairs_spec hmem
    exact absurd (hlow.trans hbr) (by decide)

end Sys2Proof.Machine

/-! PROOFS. PACK: the concatenation of green, red and blue, its inverse, and its corner cases (41_pack.md R76, R78). -/

namespace Sys2Proof.Machine

/-! ### The fields of a concatenation of three bytes -/

@[simp] theorem greenOf_append (x y z : Byte) : greenOf (x ++ y ++ z) = x := by
  rw [greenOf, BitVec.extractLsb'_append_eq_of_le (by decide : 8 ≤ 16)]
  exact BitVec.extractLsb'_append_eq_left

@[simp] theorem redOf_append (x y z : Byte) : redOf (x ++ y ++ z) = y := by
  rw [redOf, BitVec.extractLsb'_append_eq_of_le (Nat.le_refl 8)]
  exact BitVec.extractLsb'_append_eq_right

@[simp] theorem blueOf_append (x y z : Byte) : blueOf (x ++ y ++ z) = z :=
  BitVec.extractLsb'_append_eq_right

/-- The three fields tile a packed colour. -/
theorem fields_append (pk : PackedColor) : greenOf pk ++ redOf pk ++ blueOf pk = pk := by
  rw [greenOf, redOf, blueOf, BitVec.extractLsb'_append_extractLsb'_eq_extractLsb' (rfl : 16 = 8 + 8),
    BitVec.extractLsb'_append_extractLsb'_eq_extractLsb' (rfl : 8 = 0 + 8)]
  exact BitVec.extractLsb'_eq_self

/-! ### PACK and its inverse -/

/-- The shifts of R76 place the channels side by side. -/
theorem pack_eq_append (c : ScaledColor) : pack c = c.sg ++ c.sr ++ c.sb := by
  calc pack c = BitVec.setWidth 24 (c.sg ++ c.sr ++ c.sb) := by
        rw [BitVec.setWidth_append_append_eq_shiftLeft_setWidth_or, pack]
    _ = c.sg ++ c.sr ++ c.sb := BitVec.setWidth_eq ..

@[simp] theorem greenOf_pack (c : ScaledColor) : greenOf (pack c) = c.sg := by
  rw [pack_eq_append, greenOf_append]

@[simp] theorem redOf_pack (c : ScaledColor) : redOf (pack c) = c.sr := by
  rw [pack_eq_append, redOf_append]

@[simp] theorem blueOf_pack (c : ScaledColor) : blueOf (pack c) = c.sb := by
  rw [pack_eq_append, blueOf_append]

/-- Settles O11: R76's formula is the definition, and the fields are read off the concatenation. -/
theorem packConcatenatesGreenRedBlue : Obligations.PackConcatenatesGreenRedBlue :=
  ⟨fun c => ⟨rfl, pack_eq_append c, greenOf_pack c, redOf_pack c, blueOf_pack c⟩, by decide⟩

@[simp] theorem unpack_pack (c : ScaledColor) : unpack (pack c) = c := by
  rw [unpack, greenOf_pack, redOf_pack, blueOf_pack]

@[simp] theorem pack_unpack (pk : PackedColor) : pack (unpack pk) = pk :=
  (pack_eq_append (unpack pk)).trans (fields_append pk)

/-- Settles O12: each field of a packed colour is a channel, and the fields tile it. -/
theorem packIsABijection : Obligations.PackIsABijection :=
  ⟨unpack_pack, pack_unpack⟩

/-! ### Corner cases -/

/-- The fields do not overlap, so `|` is a sum in which nothing carries (R78 (d)). -/
theorem pack_toNat (c : ScaledColor) : (pack c).toNat = c.sg.toNat * 65536 + c.sr.toNat * 256 + c.sb.toNat := by
  rw [pack_eq_append, BitVec.toNat_append, BitVec.toNat_append, ← Nat.shiftLeft_add_eq_or_of_lt c.sr.isLt,
    ← Nat.shiftLeft_add_eq_or_of_lt c.sb.isLt, Nat.shiftLeft_eq, Nat.shiftLeft_eq]
  omega

/-- The green field of PACK holds the logical green, that of the logical order the logical red (R78 (h)). -/
theorem pack_ne_logicalOrder {r g : Byte} (b : Byte) (hrg : r ≠ g) : pack ⟨r, g, b⟩ ≠ r ++ g ++ b := by
  intro h
  have hgreen : greenOf (pack ⟨r, g, b⟩) = greenOf (r ++ g ++ b) := congrArg greenOf h
  rw [greenOf_pack, greenOf_append] at hgreen
  exact hrg hgreen.symm

/-- Settles O13: a zero channel drops out of the disjunction; the sum and the order are the two lemmas above. -/
theorem packPlacesSingleChannels : Obligations.PackPlacesSingleChannels :=
  ⟨fun x => by simp [pack], pack_toNat, fun _ _ b => pack_ne_logicalOrder b⟩

end Sys2Proof.Machine

/-! PROOFS. ENCODE: the accumulator of SCRATCH symbol by symbol, TRIM as the low 72 bits, and the laws of the encoding that follow
(42_encode.md R86 to R94). -/

namespace Sys2Proof.Machine

/-! ### The symbol -/

/-- A symbol is 4 plus twice the data bit (R86). -/
theorem symbol_toNat (x : Bool) : (symbol x).toNat = 4 + 2 * x.toNat := by
  cases x <;> rfl

/-- Settles O14: the code of each bit is evaluated. -/
theorem symbolCodes : Obligations.SymbolCodes :=
  ⟨rfl, rfl, fun x => ⟨by cases x <;> rfl, symbol_toNat x⟩⟩

/-- The code is affine in the data bit: the constant `100` is there once in each symbol. -/
theorem symbol_xor (x y : Bool) : symbol x ^^^ symbol y ^^^ symbol false = symbol (x ^^ y) := by
  cases x <;> cases y <;> rfl

/-- What a data bit of 1 adds to the constant `100`: the middle bit. -/
theorem symbol_xor_false_getLsbD (x : Bool) (r : Nat) :
    ((symbol x).getLsbD r ^^ (symbol false).getLsbD r) = (decide (r = 1) && x) := by
  rw [symbol_getLsbD, symbol_getLsbD]
  by_cases hr : r = 2 <;> simp [hr]

/-- The 3 bits that are a symbol of some bit. -/
theorem eq_symbol_iff (s : Symbol) :
    s = symbol (s.getLsbD 1) ↔ s.getLsbD 2 = true ∧ s.getLsbD 0 = false := by
  revert s
  decide

/-! ### Groups of three bits -/

/-- Bit `r` of group `i` stands at position `3 * i + r`. -/
theorem getLsbD_group {w : Nat} (v : BitVec w) (i : Nat) {r : Nat} (hr : r < 3) :
    v.getLsbD (3 * i + r) = (v.extractLsb' (3 * i) 3).getLsbD r := by
  rw [BitVec.getLsbD_extractLsb', decide_eq_true hr, Bool.true_and]

/-- The three bits of a group that holds a symbol. -/
theorem getLsbD_of_group_eq_symbol {w : Nat} {v : BitVec w} {i : Nat} {x : Bool} (h : v.extractLsb' (3 * i) 3 = symbol x) :
    v.getLsbD (3 * i + 2) = true ∧ v.getLsbD (3 * i + 1) = x ∧ v.getLsbD (3 * i) = false := by
  have hbit : ∀ r, r < 3 → v.getLsbD (3 * i + r) = (symbol x).getLsbD r := fun r hr => by rw [getLsbD_group v i hr, h]
  refine ⟨?_, ?_, ?_⟩
  · exact (hbit 2 (by decide)).trans (by cases x <;> rfl)
  · exact (hbit 1 (by decide)).trans (by cases x <;> rfl)
  · exact (hbit 0 (by decide)).trans (by cases x <;> rfl)

/-- A buffer is its 24 groups. -/
theorem eq_of_groups_eq {a b : PulseBuffer} (h : ∀ i, i < 24 → a.extractLsb' (3 * i) 3 = b.extractLsb' (3 * i) 3) :
    a = b := by
  refine BitVec.eq_of_getLsbD_eq fun j hj => ?_
  rw [← Nat.div_add_mod j 3, getLsbD_group a _ (Nat.mod_lt j (by decide)), getLsbD_group b _ (Nat.mod_lt j (by decide)),
    h (j / 3) (by omega)]

/-! ### SCRATCH -/

/-- SCRATCH's accumulator after any positions, bit by bit: bit `j` is bit `j % 3` of the symbol of data bit `j / 3`, if that
position was visited. A symbol is 3 bits wide, so no other position reaches bit `j`. -/
theorem scratchOver_getLsbD (w : Nat) (pk : PackedColor) (l : List Nat) (j : Nat) :
    (scratchOver w pk l).getLsbD j =
      (decide (j < w) && decide (j / 3 ∈ l) && (symbol (pk.getLsbD (j / 3))).getLsbD (j % 3)) := by
  have hpass : ∀ i, ¬j < 3 * i → (symbol (pk.getLsbD i)).getLsbD (j - 3 * i) = true → i = j / 3 := by
    intro i hlow hbit
    have hlt : j - 3 * i < 3 := BitVec.lt_of_getLsbD hbit
    omega
  have hmod : j - 3 * (j / 3) = j % 3 := by omega
  have hlow : ¬j < 3 * (j / 3) := by omega
  rw [scratchOver, scratchFold_getLsbD, BitVec.getLsbD_zero, Bool.false_or, Bool.eq_iff_iff]
  simp only [List.any_eq_true, Bool.and_eq_true, Bool.not_eq_true', decide_eq_true_eq, decide_eq_false_iff_not]
  constructor
  · rintro ⟨i, hi, ⟨hj, hlow⟩, hbit⟩
    obtain rfl := hpass i hlow hbit
    exact ⟨⟨hj, hi⟩, hmod ▸ hbit⟩
  · rintro ⟨⟨hj, hi⟩, hbit⟩
    exact ⟨j / 3, hi, ⟨hj, hlow⟩, hmod ▸ hbit⟩

/-- SCRATCH's accumulator depends on which positions are visited, not on their order or number of visits. -/
theorem scratchOver_congr (w : Nat) (pk : PackedColor) {l m : List Nat} (h : ∀ i, i ∈ l ↔ i ∈ m) :
    scratchOver w pk l = scratchOver w pk m :=
  BitVec.eq_of_getLsbD_eq fun j _ => by simp only [scratchOver_getLsbD, h]

/-- Settles O17: a permutation visits the same positions. -/
theorem scratchOrderIsIrrelevant : Obligations.ScratchOrderIsIrrelevant :=
  fun w pk _ hl => scratchOver_congr w pk fun _ => hl.mem_iff

/-- The position of a visited data bit holds its symbol. -/
theorem scratchOver_group {w : Nat} (pk : PackedColor) {l : List Nat} {i : Nat} (hw : 3 * i + 3 ≤ w) (hi : i ∈ l) :
    (scratchOver w pk l).extractLsb' (3 * i) 3 = symbol (pk.getLsbD i) := by
  refine BitVec.eq_of_getLsbD_eq fun r hr => ?_
  have hdiv : (3 * i + r) / 3 = i := by omega
  have hmod : (3 * i + r) % 3 = r := by omega
  rw [← getLsbD_group _ i hr, scratchOver_getLsbD, hdiv, hmod, decide_eq_true (by omega : 3 * i + r < w), decide_eq_true hi,
    Bool.true_and, Bool.true_and]

theorem scratch_group {w : Nat} (hw : 72 ≤ w) (pk : PackedColor) {i : Nat} (hi : i < 24) :
    (scratch w pk).extractLsb' (3 * i) 3 = symbol (pk.getLsbD i) :=
  scratchOver_group pk (by omega) (List.mem_range.2 hi)

/-- The first `n` positions write nothing above their `3 * n` bits. -/
theorem scratchOver_range_getLsbD_of_ge (w : Nat) (pk : PackedColor) {n j : Nat} (hj : 3 * n ≤ j) :
    (scratchOver w pk (List.range n)).getLsbD j = false := by
  have hout : j / 3 ∉ List.range n := by rw [List.mem_range]; omega
  rw [scratchOver_getLsbD, decide_eq_false hout, Bool.and_false, Bool.false_and]

theorem scratchOver_range_toNat_lt (w : Nat) (pk : PackedColor) (n : Nat) :
    (scratchOver w pk (List.range n)).toNat < 2 ^ (3 * n) :=
  Nat.lt_pow_two_of_testBit _ fun _ hj => (BitVec.testBit_toNat _).trans (scratchOver_range_getLsbD_of_ge w pk hj)

/-- Nothing is written above bit 71 (R89). -/
theorem scratch_getLsbD_of_ge (w : Nat) (pk : PackedColor) {j : Nat} (hj : 72 ≤ j) : (scratch w pk).getLsbD j = false :=
  scratchOver_range_getLsbD_of_ge w pk hj

theorem scratch_toNat_lt (w : Nat) (pk : PackedColor) : (scratch w pk).toNat < 2 ^ 72 :=
  scratchOver_range_toNat_lt w pk 24

/-- The two conditions on a scratch width (00_scope.md R5). -/
theorem wScratchWf_iff {w : Nat} : wScratchWf w = true ↔ 72 ≤ w ∧ w % 8 = 0 := by
  simp [wScratchWf]

/-- Settles O15: each group of the accumulator is a symbol, read as a whole and bit by bit. -/
theorem scratchPlacesEverySymbol : Obligations.ScratchPlacesEverySymbol := by
  intro w pk hwf i hi
  have hgroup := scratch_group (wScratchWf_iff.1 hwf).1 pk hi
  exact ⟨hgroup, getLsbD_of_group_eq_symbol hgroup⟩

/-- Settles O16: bit 71 is the high bit of the last symbol, and nothing stands above it. -/
theorem scratchPadBitsAreZero : Obligations.ScratchPadBitsAreZero := by
  intro w pk hwf
  obtain ⟨htop, -⟩ := getLsbD_of_group_eq_symbol (scratch_group (wScratchWf_iff.1 hwf).1 pk (i := 23) (by decide))
  exact ⟨fun j => scratch_getLsbD_of_ge w pk, Nat.ge_two_pow_of_testBit ((BitVec.testBit_toNat _).trans htop),
    scratch_toNat_lt w pk⟩

/-! ### TRIM -/

/-- Byte `k` of the big-endian rendering in `n` bytes. -/
theorem bytesBE_getElem? {w : Nat} (v : BitVec w) {n k : Nat} (hk : k < n) :
    (bytesBE n v)[k]? = some (v.extractLsb' (8 * (n - 1 - k)) 8) := by
  simp [bytesBE, hk]

@[simp] theorem bytesBE_length {w : Nat} (n : Nat) (v : BitVec w) : (bytesBE n v).length = n := by
  simp [bytesBE]

/-- Of a rendering in 9 bytes or more, TRIM keeps 9. -/
theorem trim_length {w : Nat} (hw : 72 ≤ w) (s : BitVec w) : (trim s).length = 9 := by
  rw [trim, List.length_drop, bytesBE_length]
  omega

/-- Byte `k` that TRIM keeps is the one `k` places after the discarded ones. -/
theorem trim_getElem? {w : Nat} (hw : 72 ≤ w) (s : BitVec w) {k : Nat} (hk : k < 9) :
    (trim s)[k]? = some (s.extractLsb' (64 - 8 * k) 8) := by
  have hpos : 8 * (w / 8 - 1 - (w / 8 - 9 + k)) = 64 - 8 * k := by omega
  rw [trim, List.getElem?_drop, bytesBE_getElem? s (by omega), hpos]

/-- TRIM gives the bytes of the low 72 bits. -/
theorem trim_eq_bufBytes {w : Nat} (hw : 72 ≤ w) (s : BitVec w) : trim s = bufBytes (s.setWidth 72) := by
  refine List.ext_getElem? fun k => ?_
  by_cases hk : k < 9
  · rw [trim_getElem? hw s hk, bufBytes_getElem? _ hk, bufByte]
    refine congrArg some (BitVec.eq_of_getLsbD_eq fun j hj => ?_)
    simp [hj, (by omega : 64 - 8 * k + j < 72)]
  · rw [List.getElem?_eq_none (by rw [trim_length hw]; omega), List.getElem?_eq_none (by rw [bufBytes_length]; omega)]

/-- TRIM as a 72-bit value is the low 72 bits (R91). -/
theorem bufOfBytes_trim {w : Nat} (hw : 72 ≤ w) (s : BitVec w) : bufOfBytes (trim s) = s.setWidth 72 := by
  rw [trim_eq_bufBytes hw, bufOfBytes_bufBytes]

/-- Every byte of a scratch value that stands in front of the last 9 is zero. -/
theorem scratch_leading_bytes (w : Nat) (pk : PackedColor) (n : Nat) :
    ∀ b ∈ (bytesBE n (scratch w pk)).take (n - 9), b = 0 := by
  intro b hb
  rw [bytesBE, ← List.map_take, List.take_range] at hb
  obtain ⟨k, hk, rfl⟩ := List.mem_map.1 hb
  rw [List.mem_range] at hk
  refine BitVec.eq_of_getLsbD_eq fun j hj => ?_
  rw [BitVec.getLsbD_extractLsb', scratch_getLsbD_of_ge w pk (by omega), Bool.and_false]
  exact BitVec.getLsbD_zero.symm

/-- Settles O18: the kept bytes by index and as a number; the discarded ones stand above bit 71. -/
theorem trimKeepsTheTrailingNineBytes : Obligations.TrimKeepsTheTrailingNineBytes := by
  refine ⟨fun w s hwf => ?_, fun w pk _ => scratch_leading_bytes w pk (w / 8), by decide⟩
  have hw := (wScratchWf_iff.1 hwf).1
  exact ⟨trim_length hw s, fun k => trim_getElem? hw s, bufOfBytes_trim hw s⟩

/-! ### ENCODE -/

/-- ENCODE is the low 72 bits of the accumulator, which are all it holds. -/
theorem encodeVia_eq_setWidth {w : Nat} (hw : 72 ≤ w) (pk : PackedColor) : encodeVia w pk = (scratch w pk).setWidth 72 :=
  bufOfBytes_trim hw _

/-- Group `i` of the encoding is the symbol of data bit `i`, whatever the accumulator's width. -/
theorem encodeVia_group {w : Nat} (hw : 72 ≤ w) (pk : PackedColor) {i : Nat} (hi : i < 24) :
    (encodeVia w pk).extractLsb' (3 * i) 3 = symbol (pk.getLsbD i) := by
  rw [encodeVia_eq_setWidth hw, ← scratch_group hw pk hi]
  refine BitVec.eq_of_getLsbD_eq fun r hr => ?_
  simp [hr, (by omega : 3 * i + r < 72)]

theorem encode_group (pk : PackedColor) {i : Nat} (hi : i < 24) :
    (encode pk).extractLsb' (3 * i) 3 = symbol (pk.getLsbD i) :=
  encodeVia_group (by decide) pk hi

/-- Settles O21: at any allowed width the buffer holds the same 24 symbols. -/
theorem encodeIndependentOfScratchWidth : Obligations.EncodeIndependentOfScratchWidth := by
  intro w pk hwf
  refine eq_of_groups_eq fun i hi => ?_
  rw [encodeVia_group (wScratchWf_iff.1 hwf).1 pk hi, encode_group pk hi]

/-- Bit `j` of the encoding is bit `j % 3` of the symbol of data bit `j / 3`. -/
theorem encode_getLsbD (pk : PackedColor) {j : Nat} (hj : j < 72) :
    (encode pk).getLsbD j = (symbol (pk.getLsbD (j / 3))).getLsbD (j % 3) := by
  rw [← encode_group pk (by omega : j / 3 < 24), ← getLsbD_group _ _ (Nat.mod_lt j (by decide)), Nat.div_add_mod]

/-- The three bits of group `i` of the encoding. -/
theorem encode_group_bits (pk : PackedColor) {i : Nat} (hi : i < 24) :
    (encode pk).getLsbD (3 * i + 2) = true ∧ (encode pk).getLsbD (3 * i + 1) = pk.getLsbD i ∧
      (encode pk).getLsbD (3 * i) = false :=
  getLsbD_of_group_eq_symbol (encode_group pk hi)

/-! ### ENCODE as a number -/

/-- A symbol in its place, as a number, when the accumulator is wide enough for it. -/
theorem symbol_shifted_toNat {w i : Nat} (hw : 3 * i + 3 ≤ w) (x : Bool) :
    ((symbol x).setWidth w <<< (3 * i)).toNat = (symbol x).toNat <<< (3 * i) := by
  have hlt : (symbol x).toNat < 2 ^ 3 := (symbol x).isLt
  have hfit : (symbol x).toNat <<< (3 * i) < 2 ^ w := by
    calc (symbol x).toNat <<< (3 * i) < 2 ^ (3 + 3 * i) := Nat.shiftLeft_lt hlt
      _ ≤ 2 ^ w := Nat.pow_le_pow_right (by decide) (by omega)
  rw [BitVec.toNat_shiftLeft, BitVec.toNat_setWidth_of_le (by omega), Nat.mod_eq_of_lt hfit]

/-- The first `n` positions of SCRATCH as a sum: each symbol stands above all earlier ones, so `|` carries nothing. -/
theorem scratchOver_range_toNat {w : Nat} (pk : PackedColor) {n : Nat} (hw : 3 * n ≤ w) :
    (scratchOver w pk (List.range n)).toNat =
      ((List.range n).map fun i => (symbol (pk.getLsbD i)).toNat <<< (3 * i)).sum := by
  induction n with
  | zero => simp [scratchOver]
  | succ n ih =>
    have hput : scratchOver w pk (List.range (n + 1)) = scratchPut w pk (scratchOver w pk (List.range n)) n := by
      rw [scratchOver, List.range_succ, List.foldl_concat, scratchOver]
    rw [hput, scratchPut, BitVec.toNat_or, symbol_shifted_toNat (by omega), Nat.or_comm,
      ← Nat.shiftLeft_add_eq_or_of_lt (scratchOver_range_toNat_lt w pk n), ih (by omega), List.range_succ,
      List.map_append, List.sum_append, Nat.add_comm]
    simp

/-- A symbol in its place is the constant `100` there plus the data bit one position up. -/
theorem symbol_toNat_shiftLeft (x : Bool) (i : Nat) :
    (symbol x).toNat <<< (3 * i) = 4 <<< (3 * i) + x.toNat <<< (3 * i + 1) := by
  rw [symbol_toNat]
  simp only [Nat.shiftLeft_eq, Nat.pow_succ]
  ring

/-- The encoding as a number: the constants of the 24 symbols and the data bits (R90). -/
theorem encode_toNat (pk : PackedColor) :
    (encode pk).toNat =
      0x924924924924924924 + ((List.range 24).map fun i => (pk.getLsbD i).toNat <<< (3 * i + 1)).sum := by
  have hconst : ((List.range 24).map fun i => 4 <<< (3 * i)).sum = 0x924924924924924924 := by decide
  calc (encode pk).toNat = (scratch 128 pk).toNat := by
        rw [encode, encodeVia_eq_setWidth (by decide), BitVec.toNat_setWidth, Nat.mod_eq_of_lt (scratch_toNat_lt 128 pk)]
    _ = ((List.range 24).map fun i => (symbol (pk.getLsbD i)).toNat <<< (3 * i)).sum :=
        scratchOver_range_toNat pk (by decide)
    _ = _ := by
        rw [← hconst, ← List.sum_map_add]
        simp only [symbol_toNat_shiftLeft]

/-- Settles O19: ENCODE is the definition's composition, its bits are those of the symbols, and its number their sum. -/
theorem encodeClosedForm : Obligations.EncodeClosedForm :=
  fun pk => ⟨rfl, fun _ hi => encode_group_bits pk hi, encode_toNat pk⟩

/-! ### The byte-wise form -/

theorem bitByte_getLsbD (x : Bool) (j : Nat) : (bitByte x).getLsbD j = (decide (j = 0) && x) := by
  cases x <;> simp [bitByte, BitVec.getLsbD_one]

/-- Counted over its three bytes from the last bit on, the expansion of a channel byte is the symbols of its 8 bits. -/
theorem expandByte_getLsbD (v : Byte) {m j : Nat} (hm : m < 3) (hj : j < 8) :
    ((expandByte v).getD m 0).getLsbD j = (symbol (v.getLsbD ((16 - 8 * m + j) / 3))).getLsbD ((16 - 8 * m + j) % 3) := by
  rw [symbol_getLsbD]
  interval_cases m <;>
    simp only [expandByte, List.getD_cons_zero, List.getD_cons_succ, BitVec.getLsbD_or, BitVec.getLsbD_shiftLeft,
      bitByte_getLsbD] <;>
    interval_cases j <;> simp [-BitVec.getLsbD_eq_getElem]

/-- Byte `m` of channel `c` in the encoding is byte `m` of that channel's expansion. -/
theorem bufByte_encode (pk : PackedColor) {c m : Nat} (hc : c < 3) (hm : m < 3) :
    bufByte (encode pk) (3 * c + m) = (expandByte (pk.extractLsb' (16 - 8 * c) 8)).getD m 0 := by
  refine BitVec.eq_of_getLsbD_eq fun j hj => ?_
  have hdiv : (64 - 8 * (3 * c + m) + j) / 3 = 16 - 8 * c + (16 - 8 * m + j) / 3 := by omega
  have hmod : (64 - 8 * (3 * c + m) + j) % 3 = (16 - 8 * m + j) % 3 := by omega
  have hbit : (16 - 8 * m + j) / 3 < 8 := by omega
  rw [bufByte_getLsbD, encode_getLsbD _ (by omega), expandByte_getLsbD _ hm hj, BitVec.getLsbD_extractLsb', hdiv, hmod,
    decide_eq_true hj, decide_eq_true hbit, Bool.true_and, Bool.true_and]

/-- Three bytes of the encoding are the expansion of one channel byte (R92). -/
theorem bufByte_encode_channel (pk : PackedColor) {c : Nat} (hc : c < 3) :
    [bufByte (encode pk) (3 * c), bufByte (encode pk) (3 * c + 1), bufByte (encode pk) (3 * c + 2)] =
      expandByte (pk.extractLsb' (16 - 8 * c) 8) := by
  have hfirst : bufByte (encode pk) (3 * c) = _ := bufByte_encode pk hc (by decide : 0 < 3)
  rw [hfirst, bufByte_encode pk hc (by decide : 1 < 3), bufByte_encode pk hc (by decide : 2 < 3)]
  rfl

/-- Settles O20: the 9 bytes are the three expansions, channel by channel; the two sample bytes are evaluated. -/
theorem bytewiseFormEqualsEncode : Obligations.BytewiseFormEqualsEncode := by
  refine ⟨fun pk => ?_, by decide, by decide⟩
  rw [encodeBytewise, ← bufByte_encode_channel pk (by decide : 0 < 3), ← bufByte_encode_channel pk (by decide : 1 < 3),
    ← bufByte_encode_channel pk (by decide : 2 < 3)]
  rfl

/-! ### The image -/

/-- The data bits of a buffer: the middle bit of each group. -/
def dataBits (buf : PulseBuffer) : PackedColor := BitVec.ofFnLE fun i => buf.getLsbD (3 * i.val + 1)

theorem dataBits_getLsbD (buf : PulseBuffer) {i : Nat} (hi : i < 24) :
    (dataBits buf).getLsbD i = buf.getLsbD (3 * i + 1) := by
  rw [dataBits, BitVec.getLsbD_ofFnLE, dif_pos hi]

/-- ENCODE loses nothing: the data bits of an encoding are the colour. -/
theorem dataBits_encode (pk : PackedColor) : dataBits (encode pk) = pk := by
  refine BitVec.eq_of_getLsbD_eq fun i hi => ?_
  obtain ⟨-, hdata, -⟩ := encode_group_bits pk hi
  rw [dataBits_getLsbD _ hi, hdata]

/-- Settles O22: `dataBits` is a left inverse of ENCODE. -/
theorem encodeIsInjective : Obligations.EncodeIsInjective :=
  fun _ _ hne => (Function.LeftInverse.injective dataBits_encode).ne hne

/-- A buffer whose groups are all of the two codes is the encoding of its data bits. -/
theorem encode_dataBits {buf : PulseBuffer}
    (h : ∀ i, i < 24 → buf.getLsbD (3 * i + 2) = true ∧ buf.getLsbD (3 * i) = false) : encode (dataBits buf) = buf := by
  refine eq_of_groups_eq fun i hi => ?_
  obtain ⟨htop, hlow⟩ := h i hi
  rw [encode_group _ hi, dataBits_getLsbD _ hi, getLsbD_group buf i (by decide : 1 < 3)]
  refine ((eq_symbol_iff _).2 ⟨?_, ?_⟩).symm
  · rwa [← getLsbD_group buf i (by decide : 2 < 3)]
  · rwa [← getLsbD_group buf i (by decide : 0 < 3)]

/-- Settles O23: an encoding's groups are symbols, and a buffer made of the two codes is the encoding of its data bits. -/
theorem encodeImageIsTheTwoCodes : Obligations.EncodeImageIsTheTwoCodes := by
  refine fun buf => ⟨?_, fun h => ⟨dataBits buf, encode_dataBits h⟩⟩
  rintro ⟨pk, rfl⟩ i hi
  obtain ⟨htop, -, hlow⟩ := encode_group_bits pk hi
  exact ⟨htop, hlow⟩

/-! ### Affine over bits -/

/-- ENCODE is affine because each symbol is (R94 (g)). -/
theorem encode_xor (a b : PackedColor) : encode a ^^^ encode b ^^^ encode 0 = encode (a ^^^ b) := by
  refine eq_of_groups_eq fun i hi => ?_
  have hzero : (0 : PackedColor).getLsbD i = false := BitVec.getLsbD_zero
  rw [BitVec.extractLsb'_xor, BitVec.extractLsb'_xor, encode_group a hi, encode_group b hi, encode_group 0 hi, encode_group _ hi,
    hzero, symbol_xor,
    BitVec.getLsbD_xor]

/-- A single data bit is a single bit of the buffer above the constants. -/
theorem encode_single_bit {i : Nat} (hi : i < 24) : encode (1#24 <<< i) ^^^ encode 0 = 1#72 <<< (3 * i + 1) := by
  refine BitVec.eq_of_getLsbD_eq fun j hj => ?_
  have hzero : (0 : PackedColor).getLsbD (j / 3) = false := BitVec.getLsbD_zero
  rw [BitVec.getLsbD_xor, encode_getLsbD _ hj, encode_getLsbD _ hj, hzero, ← BitVec.twoPow_eq, ← BitVec.twoPow_eq,
    BitVec.getLsbD_twoPow, BitVec.getLsbD_twoPow, symbol_xor_false_getLsbD, Bool.eq_iff_iff]
  simp only [Bool.and_eq_true, decide_eq_true_eq]
  omega

/-- Settles O24: the affine law, and with it the single flipped bit. -/
theorem encodeIsAffine : Obligations.EncodeIsAffine := by
  refine ⟨encode_xor, fun a i hi => ?_⟩
  rw [← encode_xor, BitVec.xor_assoc, encode_single_bit hi]

/-! ### Ends and population -/

/-- Each group of the encoding adds one one-bit for its high bit and one more for a data bit of 1 (R94 (i)). -/
theorem countP_encode (pk : PackedColor) {n : Nat} (hn : n ≤ 24) :
    (List.range (3 * n)).countP (fun j => (encode pk).getLsbD j) = n + (List.range n).countP fun i => pk.getLsbD i := by
  induction n with
  | zero => rfl
  | succ n ih =>
    have hrange : List.range (3 * (n + 1)) = List.range (3 * n) ++ [3 * n, 3 * n + 1, 3 * n + 2] := by
      simp only [Nat.mul_succ, List.range_succ, List.append_assoc, List.cons_append, List.nil_append]
    obtain ⟨htop, hdata, hlow⟩ := encode_group_bits pk (by omega : n < 24)
    rw [hrange, List.countP_append, ih (by omega), List.range_succ, List.countP_append]
    simp only [List.countP_cons, List.countP_nil, htop, hdata, hlow, if_true, if_false, Bool.false_eq_true]
    omega

/-- Settles O25: the first sub-bit is the high bit of the last symbol, the last one the low bit of the first. -/
theorem encodeEndsAndPopulation : Obligations.EncodeEndsAndPopulation := by
  intro pk
  obtain ⟨htop, -, -⟩ := encode_group_bits pk (by decide : 23 < 24)
  obtain ⟨-, -, hlow⟩ := encode_group_bits pk (by decide : 0 < 24)
  refine ⟨?_, ?_, countP_encode pk (Nat.le_refl 24)⟩
  · exact (bufByte_getLsbD ..).trans htop
  · exact (bufByte_getLsbD ..).trans hlow

end Sys2Proof.Machine

/-! PROOFS. The pulses on the line and the colour the LED takes from them (30_encoding.md R50, R51, 43_commands_and_transport.md R111,
R112). -/

namespace Sys2Proof.Machine

/-! ### The pulses of the two codes -/

/-- A symbol on the line is high, the data bit, low (R51). -/
@[simp] theorem symbolBits_symbol (x : Bool) : symbolBits (symbol x) = [true, x, false] := by
  cases x <;> rfl

/-- Settles O29: a pulse's widths count the sub-bits of its symbol, and every train has 72. -/
theorem pulseWidthsOfTheTwoCodes : Obligations.PulseWidthsOfTheTwoCodes :=
  fun tSub => ⟨by simp [pulseWidths], by simp [pulseWidths], fun buf => by rw [frameTime, subBits_length]⟩

/-- The sub-bits of data bits sent one symbol after the other. -/
def symbolTrain (l : List Bool) : List Bool := l.flatMap fun x => symbolBits (symbol x)

theorem symbolTrain_cons (x : Bool) (l : List Bool) : symbolTrain (x :: l) = true :: x :: false :: symbolTrain l := by
  simp [symbolTrain]

/-- A train of symbols carries the data bits it was made of. -/
theorem lineBits_symbolTrain (l : List Bool) : lineBits (symbolTrain l) = some l := by
  induction l with
  | nil => rfl
  | cons x l ih => rw [symbolTrain_cons, lineBits, ih, Option.map_some]

/-! ### The line carries the colour's bits -/

/-- The bits of a packed colour in the order the LED receives them, `pk[23]` first (R112). -/
def colourBits (pk : PackedColor) : List Bool := (List.range 24).map fun k => pk.getLsbD (23 - k)

/-- The line carries the bits of the buffer from bit 71 down. -/
theorem subBits_eq_map (buf : PulseBuffer) : subBits buf = (List.range 72).map fun p => buf.getLsbD (71 - p) := by
  refine List.ext_getElem? fun p => ?_
  by_cases hp : p < 72
  · rw [subBits_getElem? buf hp]
    simp [hp]
  · simp [hp]

/-- Sub-bits `3 * k` to `3 * k + 2` of an encoding are the symbol of data bit `23 - k`. -/
theorem encode_stream_group (pk : PackedColor) {k : Nat} (hk : k < 24) :
    [3 * k, 3 * k + 1, 3 * k + 2].map (fun p => (encode pk).getLsbD (71 - p)) = symbolBits (symbol (pk.getLsbD (23 - k))) := by
  obtain ⟨htop, hdata, hlow⟩ := encode_group_bits pk (by omega : 23 - k < 24)
  have h0 : 71 - 3 * k = 3 * (23 - k) + 2 := by omega
  have h1 : 71 - (3 * k + 1) = 3 * (23 - k) + 1 := by omega
  have h2 : 71 - (3 * k + 2) = 3 * (23 - k) := by omega
  rw [List.map_cons, List.map_cons, List.map_cons, List.map_nil, h0, h1, h2, htop, hdata, hlow, symbolBits_symbol]

/-- An encoding on the line is the symbols of the colour's bits, the most significant first. -/
theorem subBits_encode (pk : PackedColor) : subBits (encode pk) = symbolTrain (colourBits pk) := by
  have hgroups : List.range 72 = (List.range 24).flatMap fun k => [3 * k, 3 * k + 1, 3 * k + 2] := by decide
  rw [subBits_eq_map, hgroups, List.map_flatMap, symbolTrain, colourBits, List.flatMap_map]
  exact List.flatMap_congr fun k hk => encode_stream_group pk (List.mem_range.1 hk)

theorem lineBits_encode (pk : PackedColor) : lineBits (subBits (encode pk)) = some (colourBits pk) := by
  rw [subBits_encode, lineBits_symbolTrain]

/-! ### The colour from its bits -/

/-- One bit more moves the bits before it up by one. -/
theorem ofBitsMsb_concat (l : List Bool) (x : Bool) :
    ofBitsMsb (l ++ [x]) = (ofBitsMsb l <<< 1) ||| (if x then 1#24 else 0#24) :=
  List.foldl_concat ..

/-- Of the value made of any bits, bit `j` is the one `j` places before the last. -/
theorem ofBitsMsb_getLsbD (l : List Bool) {j : Nat} (hj : j < 24) : (ofBitsMsb l).getLsbD j = l.reverse.getD j false := by
  induction l using List.reverseRecOn generalizing j with
  | nil => simp [ofBitsMsb]
  | append_singleton l x ih =>
    rw [ofBitsMsb_concat, List.reverse_concat, BitVec.getLsbD_or, BitVec.getLsbD_shiftLeft]
    cases j with
    | zero => cases x <;> rfl
    | succ j =>
      have hlast : (if x then 1#24 else 0#24).getLsbD (j + 1) = false := by cases x <;> simp [BitVec.getLsbD_one]
      rw [hlast, Nat.add_sub_cancel, ih (by omega), List.getD_cons_succ]
      simp [hj]

theorem ofBitsMsb_colourBits (pk : PackedColor) : ofBitsMsb (colourBits pk) = pk := by
  refine BitVec.eq_of_getLsbD_eq fun j hj => ?_
  have hpos : 23 - (23 - j) = j := by omega
  rw [ofBitsMsb_getLsbD _ hj, List.getD_eq_getElem?_getD, List.getElem?_reverse (by simpa [colourBits] using hj)]
  simp [colourBits, hpos, (by omega : 23 - j < 24)]

/-- The LED takes the packed colour from its encoding. -/
theorem ledReceives_encode (pk : PackedColor) : ledReceives (encode pk) = some pk := by
  simp only [ledReceives, lineBits_encode]
  rw [if_pos (by simp [colourBits]), ofBitsMsb_colourBits]

theorem ledAfter_encode (pk : PackedColor) : ledAfter (encode pk) = .shows pk := by
  rw [ledAfter, ledReceives_encode]

/-- Settles O28: the line carries the colour's bits as symbols, and the LED reads the colour from them. -/
theorem ledReceivesThePackedColour : Obligations.LedReceivesThePackedColour :=
  fun pk => ⟨lineBits_encode pk, ledReceives_encode pk, ledAfter_encode pk⟩

end Sys2Proof.Machine

/-! PROOFS. The two commands, the edge and the step that run them, and the transport's two answers (43_commands_and_transport.md R101 to
R107). -/

namespace Sys2Proof.Machine

/-! ### FRAME and the buffer a command sends -/

/-- At brightness 0 every colour is black. -/
@[simp] theorem packedOperand_zero (c : Color) : packedOperand c 0 = 0 := by
  rw [packedOperand, scale, scaleChannel_zero, scaleChannel_zero, scaleChannel_zero]
  decide

/-- At full brightness the colour is packed as it stands. -/
@[simp] theorem packedOperand_full (c : Color) : packedOperand c 255 = c.g ++ c.r ++ c.b := by
  rw [packedOperand, pack_eq_append, scale, scaleChannel_full, scaleChannel_full, scaleChannel_full]

theorem frame_zero (c : Color) : frame c 0 = encode 0 := by
  rw [frame, packedOperand_zero]

/-- Settles O34: the composition is the definition, and at brightness 0 black and white share a frame. -/
theorem frameComposesAndLosesColour : Obligations.FrameComposesAndLosesColour :=
  ⟨fun _ _ => rfl, frame_zero, ⟨0, 0, 0⟩, ⟨255, 255, 255⟩, 0, by decide, by rw [frame_zero, frame_zero]⟩

/-- SHOWC sends what SHOWP of its packed colour sends, whatever `z` (R103). -/
theorem sentBy_showc (br r g b z : Byte) :
    sentBy (.showc br r g b) = sentBy (.showp z (packedOperand (colorOperand r g b) br)) := rfl

/-! ### exec in IDLE and outside it -/

theorem exec_idle (i : Instr) {s : State} (h : s.fsm = .idle) : exec i s = .next (startWrite (sentBy i) s) := by
  rw [exec_eq_acceptWrite, acceptWrite_idle _ h]

theorem exec_held (i : Instr) {s : State} (h : s.fsm ≠ .idle) : exec i s = .next s := by
  rw [exec_eq_acceptWrite, acceptWrite_held _ h]

/-- Two commands that send the same buffer do the same. -/
theorem exec_congr {i j : Instr} (h : sentBy i = sentBy j) (s : State) : exec i s = exec j s := by
  rw [exec_eq_acceptWrite, exec_eq_acceptWrite, h]

/-- Settles O32: both commands are one acceptance, which holds outside IDLE. -/
theorem commandsAreHeldOutsideIdle : Obligations.CommandsAreHeldOutsideIdle :=
  fun i _ h => exec_held i h

/-- Settles O33: acceptance starts the write in IDLE, and leaves the state as it is elsewhere. -/
theorem commandFrame : Obligations.CommandFrame := by
  intro i s t h
  rw [exec_eq_acceptWrite] at h
  rcases acceptWrite_cases h with ⟨hi, rfl⟩ | ⟨hi, rfl⟩
  · exact ⟨rfl, rfl, rfl, rfl, rfl, rfl, rfl, .inr ⟨hi, rfl, rfl⟩⟩
  · exact ⟨rfl, rfl, rfl, rfl, rfl, rfl, rfl, .inl ⟨rfl, rfl, rfl, hi⟩⟩

/-- The pins after an accepted command (R102, R103). -/
theorem pins_of_exec_idle {i : Instr} {s t : State} (hi : s.fsm = .idle) (h : exec i s = .next t) :
    busy t = true ∧ cmdReady t = false ∧ txValid t = true ∧ txData t = sentBy i := by
  rw [exec_idle i hi] at h
  obtain rfl := Host.Outcome.next.inj h
  exact ⟨rfl, rfl, rfl, rfl⟩

/-- Settles O30: the write started is the one of `ENCODE(pk)`, whatever `z`. -/
theorem showpStartsTheWrite : Obligations.ShowpStartsTheWrite :=
  fun z _ pk s hi => ⟨exec_idle (.showp z pk) hi, exec_congr rfl s, fun _ h => pins_of_exec_idle hi h⟩

/-- Settles O31: SHOWC is SHOWP of the packed colour, which is 0 at brightness 0 and the channels themselves at brightness 255. -/
theorem showcStartsTheWrite : Obligations.ShowcStartsTheWrite := by
  intro br r g b s hi
  refine ⟨exec_idle (.showc br r g b) hi, fun z => exec_congr (sentBy_showc br r g b z) s, exec_congr ?_ s, exec_congr ?_ s,
    fun t h => ?_⟩
  · rw [sentBy_showc 0 r g b 0, packedOperand_zero]
  · rw [sentBy_showc 255 r g b 0, packedOperand_full]
    rfl
  · obtain ⟨hbusy, hready, hvalid, -⟩ := pins_of_exec_idle hi h
    exact ⟨hbusy, hready, hvalid⟩

/-! ### One clock edge without reset -/

/-- `tx_fail` is heard only with `tx_done`, and `tx_done` only in SEND (10_state.md R19, 43 R106). -/
theorem clockEdge_eq_quietEdge {p : EdgePins} {s : State} (hr : p.rst = false)
    (hd : p.txDone = false ∨ s.fsm ≠ .send) : clockEdge p s = clockEdge quietEdge s := by
  rcases hd with hd | hd <;> simp [clockEdge, quietEdge, busy, hr, hd]

/-- With quiet pins and no command that can be accepted nothing happens. -/
theorem clockEdge_quietEdge_held {s : State} (h : s.cmd = none ∨ s.fsm ≠ .idle) : clockEdge quietEdge s = .next s := by
  cases hc : s.cmd with
  | none => simp [clockEdge, quietEdge, hc]
  | some cw =>
    have hf : s.fsm ≠ .idle := by simpa [hc] using h
    simp [clockEdge, quietEdge, hc, sampleCommand_held cw hf]

/-- In IDLE an edge without reset accepts the presented command, whatever the transport's pins. -/
theorem clockEdge_accept {p : EdgePins} {s : State} {cw : CommandWord} (hr : p.rst = false) (hi : s.fsm = .idle)
    (hc : s.cmd = some cw) : clockEdge p s = .next (setCmd none (startWrite (sentBy (decode cw)) s)) := by
  rw [clockEdge_eq_quietEdge hr (by simp [hi]), ← sampleCommand_idle cw hi]
  simp [clockEdge, quietEdge, hc]

/-- In SEND the transport's answer completes the write. -/
theorem clockEdge_txEdge (fail : Bool) {s : State} (hs : s.fsm = .send) :
    clockEdge (txEdge fail) s = .next (if fail then completeFail s else completeOk s) := by
  have hbusy : busy s = true := by simp [busy, hs]
  cases fail <;> simp [clockEdge, txEdge, hbusy]

/-! ### The step that runs a command -/

/-- Before anything but a raw edge a command presented in IDLE is accepted (30_encoding.md R60). -/
theorem runNext_accept {s : State} {cw : CommandWord} (hc : s.cmd = some cw) (hi : s.fsm = .idle)
    (hs : ∀ p rest, s.schedule ≠ .edge p :: rest) : runNext s = clockEdge quietEdge s := by
  have ha : acceptsFirst s = true := by simp [acceptsFirst, cmdReady, hc, hi]
  unfold runNext
  split
  · rfl
  · next p rest h => exact absurd h (hs p rest)
  · rw [if_pos ha]

/-- A raw edge happens as it stands. -/
theorem runNext_edge {s : State} {p : EdgePins} {rest : List Input} (hs : s.schedule = .edge p :: rest) :
    runNext s = clockEdge p (setSchedule rest s) := by
  rw [runNext, hs]

/-- The step that accepts a command is exec of it, with the port cleared and the draw counter advanced. -/
theorem step_accept {s : State} {cw : CommandWord} (hc : s.cmd = some cw) (hi : s.fsm = .idle)
    (hs : ∀ p rest, s.schedule ≠ .edge p :: rest) :
    exec (decode cw) s = .next (startWrite (sentBy (decode cw)) s) ∧
      step s = .next (tick (setCmd none (startWrite (sentBy (decode cw)) s))) :=
  ⟨exec_idle _ hi, step_of_runNext ((runNext_accept hc hi hs).trans (clockEdge_accept rfl hi hc))⟩

/-- The same at a raw edge without reset, which is first taken off the schedule. -/
theorem step_accept_edge {s : State} {cw : CommandWord} {p : EdgePins} {rest : List Input} (hc : s.cmd = some cw)
    (hi : s.fsm = .idle) (hs : s.schedule = .edge p :: rest) (hr : p.rst = false) :
    exec (decode cw) (setSchedule rest s) = .next (startWrite (sentBy (decode cw)) (setSchedule rest s)) ∧
      step s = .next (tick (setCmd none (startWrite (sentBy (decode cw)) (setSchedule rest s)))) :=
  ⟨exec_idle _ hi, step_of_runNext ((runNext_edge hs).trans (clockEdge_accept hr hi hc))⟩

/-- A 33-bit number in the table is the word of that number. -/
theorem decodeTableWord_of_lt (n : Nat) {w : Nat} (hw : w < 2 ^ 33) :
    decodeTableWord n w = some (decode (BitVec.ofNat 33 w)) := by
  rw [decodeTableWord, decodeBits, if_pos hw]

/-- A 33-bit number is placed on the port. -/
theorem withFetchWord_of_lt (s : State) (n : Nat) {w : Nat} (hw : w < 2 ^ 33) :
    s.withFetchWord n w = presentNow (BitVec.ofNat 33 w) s :=
  if_pos hw

/-- Settles O35: acceptance before a line, at a raw edge, and at the edge `withFetchWord` puts in front; outside
IDLE the command is held. -/
theorem stepRunsThePresentedCommand : Obligations.StepRunsThePresentedCommand := by
  refine ⟨fun s cw hc hi hs => ⟨_, step_accept hc hi hs⟩,
    fun s cw p rest hc hi hs hr => ⟨_, step_accept_edge hc hi hs hr⟩, fun s n w hi hw => ?_,
    fun s cw hc hf hs => ⟨exec_held _ hf, step_of_runNext ?_⟩⟩
  · rw [withFetchWord_of_lt s n hw]
    have hplaced : (presentNow (BitVec.ofNat 33 w) s).fsm = .idle := hi
    exact ⟨_, _, decodeTableWord_of_lt n hw, step_accept_edge rfl hplaced rfl rfl⟩
  · rw [runNext, hs]
    exact clockEdge_quietEdge_held (.inr hf)

/-! ### The transport's answers -/

/-- TXOK in SEND, whatever the host presents. -/
theorem step_txok {s : State} {rest : List Input} (hf : s.fsm = .send) (hs : s.schedule = .txok :: rest) :
    step s = .next (tick (completeOk (setSchedule rest s))) :=
  step_line_runs (.inr (by simp [hf])) hs (by simp) rfl (clockEdge_txEdge false hf)

/-- TXFAIL in SEND, whatever the host presents. -/
theorem step_txfail {s : State} {rest : List Input} (hf : s.fsm = .send) (hs : s.schedule = .txfail :: rest) :
    step s = .next (tick (completeFail (setSchedule rest s))) :=
  step_line_runs (.inr (by simp [hf])) hs (by simp) rfl (clockEdge_txEdge true hf)

/-- Outside SEND the transport's pins are ignored: with no command that can be accepted nothing happens. -/
theorem clockEdge_txEdge_ignored (fail : Bool) {s : State} (hf : s.fsm ≠ .send) (hc : s.cmd = none ∨ s.fsm ≠ .idle) :
    clockEdge (txEdge fail) s = .next s := by
  rw [clockEdge_eq_quietEdge rfl (.inr hf), clockEdge_quietEdge_held hc]

/-- A TXOK or TXFAIL line outside SEND goes by (10_state.md R19). -/
theorem step_answer_ignored {s : State} {i : Input} {rest : List Input} (hi : i = .txok ∨ i = .txfail)
    (h : s.fsm = .halt ∨ (s.fsm = .idle ∧ s.cmd = none)) (hs : s.schedule = i :: rest) :
    step s = .next { s with schedule := rest, draws := s.draws + 1 } := by
  obtain ⟨hf, hc⟩ : s.fsm ≠ .send ∧ (s.cmd = none ∨ s.fsm ≠ .idle) := by
    rcases h with h | ⟨h, hnone⟩
    · simp [h]
    · simp [h, hnone]
  rcases hi with rfl | rfl
  · exact step_line_runs hc hs (by simp) rfl (clockEdge_txEdge_ignored false hf hc)
  · exact step_line_runs hc hs (by simp) rfl (clockEdge_txEdge_ignored true hf hc)

/-- Settles O36: the completion field by field, its pins, and the ignored answer. -/
theorem txokCompletesTheWrite : Obligations.TxokCompletesTheWrite := by
  refine ⟨fun s rest hf hs => ⟨_, step_txok hf hs⟩, ?_, fun s rest h hs => step_answer_ignored (.inl rfl) h hs⟩
  rintro s t hf ⟨rest, hs⟩ h
  rw [step_txok hf hs] at h
  obtain rfl := Host.Outcome.next.inj h
  exact ⟨rfl, rfl, rfl⟩

/-- HALT stands in the transport failure (60 R136). -/
theorem transportFailure_mem_faultsOf {s : State} (h : s.fsm = .halt) : .transportFailure ∈ faultsOf s := by
  simp [faultsOf, halted, h]

/-- Settles O37: the failure field by field, its pins and fault, and the ignored answers. -/
theorem txfailEntersHalt : Obligations.TxfailEntersHalt := by
  refine ⟨fun s rest hf hs => ⟨_, step_txfail hf hs⟩, ?_, fun s => clockEdge_eq_quietEdge rfl (.inl rfl),
    fun s rest h hs => step_answer_ignored (.inr rfl) h hs⟩
  rintro s t hf ⟨rest, hs⟩ h
  rw [step_txfail hf hs] at h
  obtain rfl := Host.Outcome.next.inj h
  exact ⟨rfl, rfl, rfl, rfl, transportFailure_mem_faultsOf rfl⟩

/-! ### A command held through the completion -/

/-- A frame that starts in the step after a completion misses any gap (70 R157). -/
theorem gapsKept_completion_then_frame {tLatch : Nat} {s u v : State} (low : Option Nat) (hpos : 0 < tLatch)
    (hsu : step s = .next u) (huv : step u = .next v) (hs : busy s = true) (hu : busy u = false) (hv : busy v = true) :
    gapsKept tLatch 2 low s = false := by
  rw [gapsKept_next hsu, gapsKept_next huv, lowAfter_end hs hu, gapAtStart_frame hu hv, decide_eq_false (by omega),
    Bool.false_and, Bool.and_false]

/-- Settles O52: TXOK leaves the command on the port and the block in IDLE, where the next step accepts it. -/
theorem heldCommandIsAcceptedAfterTxok : Obligations.HeldCommandIsAcceptedAfterTxok := by
  intro s cw rest hf hc hs hrest
  have hok := step_txok hf hs
  obtain ⟨hexec, haccept⟩ := step_accept (s := tick (completeOk (setSchedule rest s))) (cw := cw) hc rfl hrest
  refine ⟨_, _, hok, rfl, hc, haccept, rfl, rfl, ?_, ⟨_, hexec, rfl⟩, fun tLatch low hpos => ?_⟩
  · exact List.append_assoc ..
  · exact gapsKept_completion_then_frame low hpos hok haccept (by simp [busy, hf]) rfl rfl

end Sys2Proof.Machine

/-! PROOFS. The documented host: its brightness counter, the actions of its loop, the frames it runs through, and the pairing every step
keeps (44_host_animation_driver.md R121 to R125). -/

namespace Sys2Proof.Machine

/-! ### The brightness counter -/

/-- In its range the counter goes up by 1 modulo 100. -/
theorem advance_toNat {hbr : Byte} (h : hbr.toNat < 100) : (advance hbr).toNat = (hbr.toNat + 1) % 100 := by
  unfold advance brMod
  split
  · have hlast : hbr.toNat + 1 = 100 := by omega
    rw [hlast]
    rfl
  · rw [BitVec.toNat_ofNat]
    omega

theorem advance_iterate_toNat (n : Nat) : (advance^[n] 0).toNat = n % 100 := by
  induction n with
  | zero => rfl
  | succ n ih =>
    rw [Function.iterate_succ_apply', advance_toNat (by omega), ih, Nat.mod_add_mod]

/-- Settles O56: in the range, going up modulo 100 is going up by 1 except at 99; the iterates by induction. -/
theorem brightnessWrapsAtHundred : Obligations.BrightnessWrapsAtHundred := by
  refine ⟨fun hbr hle => ?_, advance_iterate_toNat⟩
  rw [advance_toNat (by omega)]
  split <;> omega

/-! ### The driver's actions -/

/-- About to present, with the port empty: the next frame's command is presented. -/
theorem driverAction_ready {s : State} (hp : s.phase = .ready) (hc : s.cmd = none) :
    driverAction s = setCmd (some (encodeWord (frameCommand s.idx (advance s.hbr))))
      (setHost s.idx (advance s.hbr) .waiting s) := by
  simp [driverAction, hp, hc]

/-- Keeping index, brightness and place is no change. -/
theorem setHost_self {s : State} {p : HostPhase} (h : s.phase = p) : setHost s.idx s.hbr p s = s := by
  subst h
  rfl

/-- Waiting, with the command accepted: the driver suspends once `busy` is 0. -/
theorem driverAction_waiting {s : State} (hp : s.phase = .waiting) (hc : s.cmd = none) :
    driverAction s = setHost s.idx s.hbr (if busy s then .waiting else .suspended) s := by
  cases hb : busy s with
  | true => simp [driverAction, hp, hb, setHost_self hp]
  | false => simp [driverAction, hp, hc, hb]

/-- The suspension over: the next palette entry. -/
theorem driverAction_suspended {s : State} (hp : s.phase = .suspended) :
    driverAction s = setHost (s.idx + 1) s.hbr .ready s := by
  simp [driverAction, hp]

/-- While a command is held the driver only polls (60 R143). -/
theorem driverAction_held {s : State} (hp : s.phase = .ready ∨ s.phase = .waiting) {cw : CommandWord}
    (hc : s.cmd = some cw) : driverAction s = s := by
  rcases hp with hp | hp <;> simp [driverAction, hp, hc]

/-- The driver's line runs its action, unless a held command can be accepted first. -/
theorem step_driver {s : State} {rest : List Input} (hc : s.cmd = none ∨ s.fsm ≠ .idle)
    (hs : s.schedule = .driver :: rest) : step s = .next (tick (driverAction (setSchedule rest s))) :=
  step_line_runs hc hs (by simp) rfl rfl

theorem step_driver_ready {s : State} {rest : List Input} (hp : s.phase = .ready) (hc : s.cmd = none)
    (hs : s.schedule = .driver :: rest) :
    step s = .next { s with hbr := advance s.hbr, phase := .waiting, schedule := rest, draws := s.draws + 1,
                            cmd := some (encodeWord (frameCommand s.idx (advance s.hbr))) } := by
  rw [step_driver (.inl hc) hs, driverAction_ready (s := setSchedule rest s) hp hc]
  rfl

theorem step_driver_waiting {s : State} {rest : List Input} (hp : s.phase = .waiting) (hc : s.cmd = none)
    (hs : s.schedule = .driver :: rest) :
    step s = .next { s with phase := (if busy s = true then .waiting else .suspended), schedule := rest,
                            draws := s.draws + 1 } := by
  rw [step_driver (.inl hc) hs, driverAction_waiting (s := setSchedule rest s) hp hc]
  rfl

theorem step_driver_suspended {s : State} {rest : List Input} (hp : s.phase = .suspended) (hc : s.cmd = none)
    (hs : s.schedule = .driver :: rest) :
    step s = .next { s with idx := s.idx + 1, phase := .ready, schedule := rest, draws := s.draws + 1 } := by
  rw [step_driver (.inl hc) hs, driverAction_suspended (s := setSchedule rest s) hp]
  rfl

theorem step_driver_held {s : State} {rest : List Input} {cw : CommandWord} (hp : s.phase = .ready ∨ s.phase = .waiting)
    (hc : s.cmd = some cw) (hf : s.fsm ≠ .idle) (hs : s.schedule = .driver :: rest) :
    step s = .next { s with schedule := rest, draws := s.draws + 1 } := by
  rw [step_driver (.inr hf) hs, driverAction_held (s := setSchedule rest s) hp hc]
  rfl

/-- Settles O58: the driver's line in each place of the loop, and the palette's four entries. -/
theorem driverTakesItsLoopStep : Obligations.DriverTakesItsLoopStep :=
  ⟨fun _ _ hp hc hs => step_driver_ready hp hc hs, fun _ _ hp hc hs => step_driver_waiting hp hc hs,
    fun _ _ hp hc hs => step_driver_suspended hp hc hs, fun _ _ _ hp hc hf hs => step_driver_held hp hc hf hs,
    rfl, rfl, rfl, rfl⟩

/-! ### The sequence of frames -/

/-- The palette index goes round the four entries. -/
theorem paletteIndex_succ (i : Fin 4) : (i + 1).val = (i.val + 1) % 4 :=
  Fin.val_add i 1

theorem frameHost_succ (n : Nat) : frameHost (n + 1) = ((frameHost n).1 + 1, advance (frameHost n).2) := rfl

theorem frameHost_fst_val (n : Nat) : (frameHost n).1.val = n % 4 := by
  induction n with
  | zero => rfl
  | succ n ih => rw [frameHost_succ, paletteIndex_succ, ih, Nat.mod_add_mod]

theorem frameHost_snd_toNat (n : Nat) : (frameHost n).2.toNat = (n + 1) % 100 := by
  induction n with
  | zero => rfl
  | succ n ih => rw [frameHost_succ, advance_toNat (by omega), ih, Nat.mod_add_mod]

/-- 100 is a multiple of 4, so both coordinates repeat after 100 frames. -/
theorem frameHost_add_hundred (n : Nat) : frameHost (n + 100) = frameHost n := by
  refine Prod.ext (Fin.ext ?_) (BitVec.eq_of_toNat_eq ?_)
  · rw [frameHost_fst_val, frameHost_fst_val]
    omega
  · rw [frameHost_snd_toNat, frameHost_snd_toNat]
    omega

/-- A brightness determines its palette entry. -/
theorem frameHost_fst_of_snd (n : Nat) : (frameHost n).1.val = ((frameHost n).2.toNat + 3) % 4 := by
  rw [frameHost_fst_val, frameHost_snd_toNat]
  omega

/-- Settles O57: the closed form coordinate by coordinate, and the driver's three actions read at frame `n`. -/
theorem frameSequenceClosedForm : Obligations.FrameSequenceClosedForm := by
  refine ⟨fun n => ⟨frameHost_fst_val n, frameHost_snd_toNat n, frameHost_add_hundred n, frameHost_fst_of_snd n⟩,
    rfl, rfl, ?_, ?_, ?_⟩
  · intro n s rest hp hc hn hs
    refine ⟨_, step_driver_ready hp hc hs, rfl, hn, ?_⟩
    rw [← hn]
    rfl
  · intro n s rest hp hc hf hn hs
    exact ⟨_, step_driver_waiting hp hc hs, if_neg (by simp [busy, hf]), hn⟩
  · intro n s rest hp hc hn hs
    refine ⟨_, step_driver_suspended hp hc hs, rfl, ?_⟩
    rw [frameHost_succ, ← hn]

/-! ### The pairing of brightness and palette entry -/

theorem hostPairs_ready_iff {s : State} (h : s.phase = .ready) :
    hostPairs s ↔ s.hbr.toNat < 100 ∧ s.hbr.toNat % 4 = s.idx.val := by
  simp [hostPairs, brMod, h]

theorem hostPairs_presented_iff {s : State} (h : s.phase = .waiting ∨ s.phase = .suspended) :
    hostPairs s ↔ s.hbr.toNat < 100 ∧ s.hbr.toNat % 4 = (s.idx.val + 1) % 4 := by
  rcases h with h | h <;> simp [hostPairs, brMod, h]

theorem hostPairs_panicked_iff {s : State} (h : s.phase = .panicked) : hostPairs s ↔ s.hbr.toNat < 100 := by
  simp [hostPairs, brMod, h]

/-- The pairing is about the host's three fields alone. -/
theorem hostPairs.congr {s t : State} (h : hostPairs s) (hi : t.idx = s.idx) (hb : t.hbr = s.hbr)
    (hp : t.phase = s.phase) : hostPairs t := by
  unfold hostPairs
  rw [hi, hb, hp]
  exact h

/-- A move of the block leaves the host's loop alone. -/
theorem BlockMove.host_frame {rst : Bool} {s u : State} (h : BlockMove rst s u) :
    u.idx = s.idx ∧ u.hbr = s.hbr ∧ u.phase = s.phase := by
  cases h <;> exact ⟨rfl, rfl, rfl⟩

/-- A move of the block keeps the pairing, whatever the schedule is set to before it. -/
theorem BlockMove.keeps_hostPairs {rst : Bool} {s u : State} {l : List Input} (h : BlockMove rst (setSchedule l s) u)
    (hs : hostPairs s) : hostPairs u := by
  obtain ⟨hi, hb, hp⟩ := h.host_frame
  exact hs.congr hi hb hp

/-- Everything the driver's action can do. -/
theorem driverAction_cases (s : State) :
    driverAction s = s ∨
    (s.phase = .ready ∧ driverAction s = setCmd (some (encodeWord (frameCommand s.idx (advance s.hbr))))
      (setHost s.idx (advance s.hbr) .waiting s)) ∨
    (s.phase = .waiting ∧ driverAction s = setHost s.idx s.hbr .suspended s) ∨
    (s.phase = .suspended ∧ driverAction s = setHost (s.idx + 1) s.hbr .ready s) := by
  unfold driverAction
  split
  · next hp => split <;> simp [hp]
  · next hp => split <;> simp [hp]
  · next hp => simp [hp]
  · exact .inl rfl

/-- Presenting moves the brightness on and the suspension's end moves the entry on, so the two stay together, through the wrap
at 99 too, 100 being a multiple of 4. -/
theorem driverAction_keeps_hostPairs {s : State} (h : hostPairs s) : hostPairs (driverAction s) := by
  obtain he | ⟨hp, he⟩ | ⟨hp, he⟩ | ⟨hp, he⟩ := driverAction_cases s
  · rwa [he]
  · obtain ⟨hlt, hmod⟩ := (hostPairs_ready_iff hp).1 h
    rw [he, hostPairs_presented_iff (.inl rfl), setCmd_hbr, setHost_hbr, setCmd_idx, setHost_idx, advance_toNat hlt]
    omega
  · rw [he, hostPairs_presented_iff (.inr rfl)]
    exact (hostPairs_presented_iff (.inl hp)).1 h
  · obtain ⟨hlt, hmod⟩ := (hostPairs_presented_iff (.inr hp)).1 h
    rw [he, hostPairs_ready_iff rfl, setHost_hbr, setHost_idx, paletteIndex_succ]
    exact ⟨hlt, hmod⟩

/-- A turn of the schedule keeps the pairing. -/
theorem StepMove.keeps_hostPairs {s u : State} (h : StepMove s u) (hs : hostPairs s) : hostPairs u := by
  cases h with
  | quiet h => exact h.keeps_hostPairs (l := s.schedule) hs
  | edge i rest hsched hr h => exact h.keeps_hostPairs hs
  | line h hi hb hp => exact hs.congr hi hb hp
  | driver rest hsched => exact driverAction_keeps_hostPairs (hs.congr rfl rfl rfl)
  | panic rest hsched => exact (hostPairs_panicked_iff rfl).2 hs.1
  | device rest hsched => exact resetMeetsTheInvariants.2.congr rfl rfl rfl

/-- Settles O44: every kind of move keeps the pairing, and the draw counter is no part of it. -/
theorem stepKeepsTheHostPairing : Obligations.StepKeepsTheHostPairing := by
  intro s t hs h
  obtain ⟨u, hu, hm⟩ := runNext_move s
  rw [step_of_runNext hu] at h
  obtain rfl := Host.Outcome.next.inj h
  exact (hm.keeps_hostPairs hs).congr rfl rfl rfl

end Sys2Proof.Machine

/-! PROOFS. What can go wrong: the step that always answers, the priority at one edge, HALT and its only exit, and a panic of the host
(60_exceptions.md R135 to R144). -/

namespace Sys2Proof.Machine

/-! ### Every step answers -/

/-- Every step is one of the moves, ticked. -/
theorem step_move (s : State) : ∃ u, step s = .next (tick u) ∧ StepMove s u := by
  obtain ⟨u, hu, hm⟩ := runNext_move s
  exact ⟨u, step_of_runNext hu, hm⟩

/-- Settles O42: one turn of the schedule always answers a next state, and the step ticks it. -/
theorem everyStepAnswersANextState : Obligations.EveryStepAnswersANextState := by
  intro s
  obtain ⟨u, hu, -⟩ := step_move s
  exact ⟨tick u, hu⟩

/-! ### The order at one edge -/

/-- The reset pin comes before everything else (R144). -/
theorem clockEdge_reset {p : EdgePins} (hr : p.rst = true) (s : State) : clockEdge p s = .next (resetBlock s) :=
  if_pos hr

/-- In SEND, without reset, `tx_done` completes the write, whatever the host presents (R144). -/
theorem clockEdge_complete {p : EdgePins} {s : State} (hr : p.rst = false) (hd : p.txDone = true) (hs : s.fsm = .send) :
    clockEdge p s = .next (if p.txFail then completeFail s else completeOk s) := by
  simp [clockEdge, busy, hr, hd, hs]

/-- Settles O41: the three branches of an edge in their order; the completion leaves the command port as it is, and an acceptance
records nothing but the write. -/
theorem simultaneousInputsPriority : Obligations.SimultaneousInputsPriority := by
  refine ⟨fun p s hr => clockEdge_reset hr s, fun p s hr hd hs => ⟨_, clockEdge_complete hr hd hs, ?_⟩,
    fun p s cw hr hi hc => ⟨_, clockEdge_accept hr hi hc, rfl, rfl⟩⟩
  cases p.txFail with
  | true => exact ⟨rfl, rfl⟩
  | false => exact ⟨rfl, rfl⟩

/-! ### The exit from HALT -/

/-- At an edge, a Reset is recorded only with the reset pin high. -/
theorem BlockMove.rst_of_history {rst : Bool} {s u : State} (h : BlockMove rst s u)
    (hh : u.history = s.history ++ [.reset]) : rst = true := by
  cases h with
  | stay => simp at hh
  | accept cw hi hc => simp [startWrite_eq] at hh
  | ok hs => simp [completeOk_eq] at hh
  | fail hs => simp [completeFail_eq] at hh
  | reset hr => exact hr

/-- A Reset is recorded only where an input that resets the block comes next. -/
theorem StepMove.resetsBlock_of_history {s u : State} (h : StepMove s u) (hh : u.history = s.history ++ [.reset]) :
    ∃ i rest, s.schedule = i :: rest ∧ resetsBlock i = true := by
  cases h with
  | quiet h => exact absurd (h.rst_of_history hh) Bool.false_ne_true
  | edge i rest hs hr h => exact ⟨i, rest, hs, hr (h.rst_of_history hh)⟩
  | line h =>
    obtain ⟨-, -, hsame, -⟩ := h
    simp [hsame] at hh
  | driver rest hs =>
    obtain ⟨-, -, hsame, -⟩ := driverAction_outside (setSchedule rest s)
    simp [hsame] at hh
  | panic rest hs => simp [hostPanic] at hh
  | device rest hs => exact ⟨_, rest, hs, rfl⟩

/-- The same of the whole step. -/
theorem resetsBlock_of_step_history {s t : State} (h : step s = .next t) (hh : t.history = s.history ++ [.reset]) :
    ∃ i rest, s.schedule = i :: rest ∧ resetsBlock i = true := by
  obtain ⟨u, hu, hm⟩ := step_move s
  obtain rfl := Host.Outcome.next.inj (hu.symm.trans h)
  exact hm.resetsBlock_of_history hh

/-- With no write outstanding a reset leaves the LED as it is (70 R152). -/
theorem ledAfterReset_of_ne_send {s : State} (h : s.fsm ≠ .send) : ledAfterReset s = s.led := by
  rw [ledAfterReset_eq_ite, if_neg h]

/-- Settles O40: of the five ways a step can treat the block only two start in HALT, to leave it alone and to reset it. -/
theorem haltIsLeftOnlyByReset : Obligations.HaltIsLeftOnlyByReset := by
  intro s t hhalt h
  cases step_blockStep h with
  | stay hf hb hh hl => exact .inl ⟨hf.trans hhalt, hb, hh, hl⟩
  | accept cw hi => simp [hhalt] at hi
  | ok hs => simp [hhalt] at hs
  | fail hs => simp [hhalt] at hs
  | reset hf hh hl =>
    have hled : ledAfterReset s = s.led := ledAfterReset_of_ne_send (by simp [hhalt])
    exact .inr ⟨hf, hh, hl.trans hled, resetsBlock_of_step_history h hh⟩

/-! ### A panic of the host -/

/-- A panicked host's driver does nothing (R140). -/
theorem driverAction_panicked {s : State} (h : s.phase = .panicked) : driverAction s = s := by
  simp [driverAction, h]

/-- A panicked host presents nothing (R140). -/
theorem runInput_present_panicked (cw : CommandWord) {s : State} (h : s.phase = .panicked) :
    runInput (.present cw) s = .next s := by
  simp [runInput, h]

/-- Settles O59: the panic changes the host's place and the port alone, and afterwards the driver's lines and the command lines go by. -/
theorem panicStopsOnlyTheHost : Obligations.PanicStopsOnlyTheHost := by
  refine ⟨fun s rest hc hs => step_line_runs hc hs (by simp) rfl rfl, ?_⟩
  rintro s rest i hp hc (rfl | ⟨cw, rfl⟩) hs
  · rw [step_driver (.inl hc) hs, driverAction_panicked (s := setSchedule rest s) hp]
    rfl
  · exact step_line_runs (.inl hc) hs (by simp) (by simp [mustWait, hc])
      (runInput_present_panicked cw (s := setSchedule rest s) hp)

end Sys2Proof.Machine

/-! PROOFS. Reset and hazards: the reset pin, a command taken away, and runs in which nothing reaches the block: the write without an
answer and the ends of a run (70_reset_and_hazards.md R150 to R165). -/

namespace Sys2Proof.Machine

/-! ### The reset pin -/

/-- An edge with the reset pin high, whatever the other pins. -/
theorem step_reset_edge {s : State} {p : EdgePins} {rest : List Input} (hr : p.rst = true)
    (hs : s.schedule = .edge p :: rest) : step s = .next (tick (resetBlock (setSchedule rest s))) :=
  step_of_runNext ((runNext_edge hs).trans (clockEdge_reset hr _))

/-- Settles O38: the edge resets the block and takes nothing else into account; `PBUF` takes the free draw. -/
theorem resetPinFromEveryState : Obligations.ResetPinFromEveryState := by
  refine ⟨fun s p rest hr hs => ⟨Config.freePbuf s.draws, ?_⟩, ?_⟩
  · rw [step_reset_edge hr hs, resetBlock_eq, ← ledAfterReset_eq_ite]
    rfl
  · rintro s t ⟨p, rest, hr, hs⟩ h
    rw [step_reset_edge hr hs] at h
    obtain rfl := Host.Outcome.next.inj h
    exact ⟨rfl, rfl, rfl, rfl⟩

/-! ### A command presented and taken away -/

/-- The host presents on an empty port. -/
theorem step_present {s : State} {cw : CommandWord} {rest : List Input} (hc : s.cmd = none) (hp : s.phase ≠ .panicked)
    (hs : s.schedule = .present cw :: rest) : step s = .next (tick (setCmd (some cw) (setSchedule rest s))) := by
  obtain ⟨-, -, hpresent, -⟩ := hostActionsLeaveTheBlock
  exact hpresent s cw rest hc hp hs

/-- Settles O53: outside IDLE presenting and withdrawing touch the command port alone, and leave it empty as it was. -/
theorem withdrawnCommandIsLost : Obligations.WithdrawnCommandIsLost := by
  intro s cw rest hf hc hp hs
  refine ⟨_, step_present hc hp hs, rfl, ?_⟩
  have hheld : (tick (setCmd (some cw) (setSchedule (.withdraw :: rest) s))).fsm ≠ .idle := by simp [hf]
  rw [step_line_runs (.inr hheld) rfl (by simp) rfl rfl]
  exact congrArg _ (State.ext_fields rfl rfl rfl hc.symm rfl rfl rfl rfl rfl rfl)

/-! ### Runs -/

/-- A run of one step more takes that step first, on any machine. -/
theorem core_run_succ {M : Host.Core} {s t : M.State} (h : M.step s = .next t) (n : Nat) : M.run (n + 1) s = M.run n t := by
  rw [Host.Core.run, h]

/-- The same on this machine. -/
theorem run_succ {s t : State} (h : step s = .next t) (n : Nat) :
    Sys2Proof.core.run (n + 1) s = Sys2Proof.core.run n t :=
  core_run_succ (M := Sys2Proof.core) h n

/-- What every step keeps, every run keeps; and every run answers, since every step does. -/
theorem run_keeps {P : State → Prop} (hstep : ∀ s t, P s → step s = .next t → P t) (n : Nat) {s : State} (hs : P s) :
    ∃ t : State, Sys2Proof.core.run n s = .next t ∧ P t := by
  induction n generalizing s with
  | zero => exact ⟨s, rfl, hs⟩
  | succ n ih =>
    obtain ⟨t, ht⟩ := everyStepAnswersANextState s
    rw [run_succ ht]
    exact ih (hstep s t hs ht)

/-! ### The schedule is only used up -/

theorem BlockMove.schedule_eq {rst : Bool} {s u : State} (h : BlockMove rst s u) : u.schedule = s.schedule := by
  cases h <;> rfl

theorem clockEdge_schedule {p : EdgePins} {s u : State} (h : clockEdge p s = .next u) : u.schedule = s.schedule := by
  obtain ⟨t, ht, hm⟩ := clockEdge_move p s
  obtain rfl := Host.Outcome.next.inj (ht.symm.trans h)
  exact hm.schedule_eq

theorem driverAction_schedule (s : State) : (driverAction s).schedule = s.schedule := by
  obtain he | ⟨-, he⟩ | ⟨-, he⟩ | ⟨-, he⟩ := driverAction_cases s <;> rw [he] <;> rfl

/-- Running an input leaves the inputs after it on the schedule. -/
theorem runInput_schedule {i : Input} {s u : State} (h : runInput i s = .next u) : u.schedule = s.schedule := by
  cases i with
  | txok | txfail | edge => exact clockEdge_schedule h
  | driver =>
    obtain rfl := Host.Outcome.next.inj h
    exact driverAction_schedule s
  | present cw =>
    obtain rfl := Host.Outcome.next.inj h
    split <;> rfl
  | withdraw | panic | heartbeat | wait | reset =>
    obtain rfl := Host.Outcome.next.inj h
    rfl

/-- A step takes at most the first input off the schedule and adds none. -/
theorem step_schedule_suffix {s t : State} (h : step s = .next t) : t.schedule <:+ s.schedule := by
  obtain ⟨u, hu, -⟩ := runNext_move s
  obtain rfl := Host.Outcome.next.inj ((step_of_runNext hu).symm.trans h)
  rw [tick_schedule]
  unfold runNext at hu
  split at hu
  · rw [clockEdge_schedule hu]
  · next p rest hs =>
    rw [clockEdge_schedule hu, hs]
    exact List.suffix_cons _ rest
  · next i rest hedge hs =>
    split at hu
    · rw [clockEdge_schedule hu]
    · split at hu
      · rw [Host.Outcome.next.inj hu]
      · rw [runInput_schedule hu, hs]
        exact List.suffix_cons i rest

/-! ### Nothing reaches the block -/

/-- The block and the LED stand in `t` as in `s`. -/
def BlockKept (s t : State) : Prop :=
  t.fsm = s.fsm ∧ t.pbuf = s.pbuf ∧ t.history = s.history ∧ t.led = s.led

theorem BlockKept.refl (s : State) : BlockKept s s := ⟨rfl, rfl, rfl, rfl⟩

theorem BlockKept.trans {s t u : State} (hst : BlockKept s t) (htu : BlockKept t u) : BlockKept s u := by
  obtain ⟨hf, hb, hh, hl⟩ := hst
  obtain ⟨hf', hb', hh', hl'⟩ := htu
  exact ⟨hf'.trans hf, hb'.trans hb, hh'.trans hh, hl'.trans hl⟩

/-- What an agent outside the block does, ticked, keeps the block. -/
theorem OutsideMove.blockKept {s u : State} (h : OutsideMove s u) : BlockKept s (tick u) := by
  obtain ⟨hf, hb, hh, hl, -⟩ := h
  exact ⟨hf, hb, hh, hl⟩

/-- With `FSM = f` the input neither resets the block nor ends its write. -/
def Unheard (f : Fsm) (i : Input) : Prop := resetsBlock i = false ∧ (mayEndWrite i = false ∨ f ≠ .send)

/-- An input that cannot end a write cannot reset the block either. -/
theorem unheard_of_mayEndWrite {f : Fsm} {i : Input} (h : mayEndWrite i = false) : Unheard f i := by
  refine ⟨?_, .inl h⟩
  cases i with
  | reset => exact h
  | edge p =>
    obtain ⟨hr, -⟩ := Bool.or_eq_false_iff.1 h
    exact hr
  | _ => rfl

/-- An edge that is not heard, with no command that can be accepted, has no effect. -/
theorem clockEdge_unheard {p : EdgePins} {s : State} (hi : Unheard s.fsm (.edge p)) (hc : s.cmd = none ∨ s.fsm ≠ .idle) :
    clockEdge p s = .next s := by
  obtain ⟨hr, hd⟩ := hi
  have hdone : p.txDone = false ∨ s.fsm ≠ .send := hd.imp_left fun h => (Bool.or_eq_false_iff.1 h).2
  rw [clockEdge_eq_quietEdge hr hdone, clockEdge_quietEdge_held hc]

/-- An input that is not heard is no move of the block. -/
theorem runInput_unheard {i : Input} {s : State} (hi : Unheard s.fsm i) (hc : s.cmd = none ∨ s.fsm ≠ .idle) :
    ∃ u, runInput i s = .next u ∧ OutsideMove s u := by
  cases i with
  | present cw => exact runInput_present_outside cw s
  | withdraw | driver | panic => exact runInput_host_outside (by simp) s
  | heartbeat | wait => exact ⟨s, rfl, OutsideMove.refl s⟩
  | txok | txfail => exact ⟨s, clockEdge_unheard ⟨rfl, hi.2⟩ hc, OutsideMove.refl s⟩
  | reset => exact absurd hi.1 (by simp [resetsBlock])
  | edge p => exact ⟨s, clockEdge_unheard hi hc, OutsideMove.refl s⟩

/-- A step whose input is not heard keeps the block. -/
theorem step_unheard {s t : State} (hc : s.cmd = none ∨ s.fsm ≠ .idle) (hs : ∀ i ∈ s.schedule, Unheard s.fsm i)
    (h : step s = .next t) : BlockKept s t := by
  suffices hnext : ∃ u, runNext s = .next u ∧ OutsideMove s u by
    obtain ⟨u, hu, hm⟩ := hnext
    obtain rfl := Host.Outcome.next.inj ((step_of_runNext hu).symm.trans h)
    exact hm.blockKept
  unfold runNext
  split
  · exact ⟨s, clockEdge_quietEdge_held hc, OutsideMove.refl s⟩
  · next p rest hsched =>
    exact runInput_unheard (i := .edge p) (s := setSchedule rest s) (hs _ (by simp [hsched])) hc
  · next i rest hedge hsched =>
    rw [acceptsFirst_eq_false hc, if_neg Bool.false_ne_true]
    split
    · exact ⟨s, rfl, OutsideMove.refl s⟩
    · exact runInput_unheard (s := setSchedule rest s) (hs i (by simp [hsched])) hc

/-- Nothing reaches the block from here on: no scheduled input is heard, and no command can be accepted, because `FSM` is not IDLE or
because the port is empty with nothing more scheduled. -/
def Undisturbed (s : State) : Prop :=
  (s.fsm ≠ .idle ∨ (s.cmd = none ∧ s.schedule = [])) ∧ ∀ i ∈ s.schedule, Unheard s.fsm i

/-- With nothing scheduled and no command held only the draw counter advances. -/
theorem step_nothing {s : State} (hc : s.cmd = none) (hs : s.schedule = []) : step s = .next (tick s) :=
  step_of_runNext (by rw [runNext, hs, clockEdge_quietEdge_held (.inl hc)])

/-- An undisturbed state stays so, and its block is kept. -/
theorem Undisturbed.kept_by_step {s t : State} (hs : Undisturbed s) (h : step s = .next t) : Undisturbed t ∧ BlockKept s t := by
  obtain ⟨hport, hsched⟩ := hs
  have hkept : BlockKept s t := step_unheard (hport.symm.imp_left And.left) hsched h
  refine ⟨⟨?_, fun i hi => ?_⟩, hkept⟩
  · rcases hport with hf | ⟨hc, hnil⟩
    · exact .inl (hkept.1 ▸ hf)
    · rw [step_nothing hc hnil] at h
      obtain rfl := Host.Outcome.next.inj h
      exact .inr ⟨hc, hnil⟩
  · rw [hkept.1]
    exact hsched i ((step_schedule_suffix h).subset hi)

/-- The block stands for any number of steps from an undisturbed state. -/
theorem Undisturbed.kept_by_run {s : State} (hs : Undisturbed s) (n : Nat) :
    ∃ t : State, Sys2Proof.core.run n s = .next t ∧ BlockKept s t := by
  have hstep : ∀ u v, Undisturbed u ∧ BlockKept s u → step u = .next v → Undisturbed v ∧ BlockKept s v := by
    rintro u v ⟨hund, hkept⟩ huv
    obtain ⟨hund', hkept'⟩ := hund.kept_by_step huv
    exact ⟨hund', hkept.trans hkept'⟩
  obtain ⟨t, ht, -, hkept⟩ := run_keeps hstep n ⟨hs, BlockKept.refl s⟩
  exact ⟨t, ht, hkept⟩

/-- Settles O51: in SEND, with no answer and no reset to come, nothing reaches the block. -/
theorem outstandingWriteNeverTimesOut : Obligations.OutstandingWriteNeverTimesOut := by
  intro n s hf hs
  have hund : Undisturbed s := ⟨.inl (by simp [hf]), fun i hi => unheard_of_mayEndWrite (hs i hi)⟩
  obtain ⟨t, ht, hfsm, hb, hh, -⟩ := hund.kept_by_run n
  exact ⟨t, ht, hfsm.trans hf, hb, hh⟩

/-! ### The ends of a run -/

/-- The end of a run is read off `FSM` and the history alone. -/
theorem BlockKept.runEnd_eq {s t : State} (h : BlockKept s t) (cmds : List CommandWord) : runEnd cmds t = runEnd cmds s := by
  obtain ⟨hf, -, hh, -⟩ := h
  simp [runEnd, hf, hh]

/-- An end from which nothing reaches the block is final. -/
theorem Undisturbed.runEnd_final {s : State} (hs : Undisturbed s) {cmds : List CommandWord} {e : RunEnd}
    (he : runEnd cmds s = e) (n : Nat) :
    ∃ t : State, Sys2Proof.core.run n s = .next t ∧ runEnd cmds t = e ∧ t.history = s.history ∧ t.led = s.led := by
  obtain ⟨t, ht, hkept⟩ := hs.kept_by_run n
  have hend : runEnd cmds t = e := (hkept.runEnd_eq cmds).trans he
  obtain ⟨-, -, hh, hl⟩ := hkept
  exact ⟨t, ht, hend, hh, hl⟩

/-- Leaving out the resets does not change the count of other events. -/
theorem countP_withoutResets {q : Event → Bool} (hq : q .reset = false) (h : List Event) :
    (withoutResets h).countP q = h.countP q := by
  rw [withoutResets, List.countP_filter]
  refine List.countP_congr fun e _ => ?_
  cases e with
  | reset => simp [hq]
  | _ => simp

theorem okEvents_singleton (cw : CommandWord) : okEvents [cw] = [.txWrite (sentBy (decode cw)), .txDone .ok] := rfl

/-- Events of which each accepted and completed command records one. -/
theorem countP_okEvents {q : Event → Bool}
    (hq : ∀ buf, [Event.txWrite buf, .txDone .ok].countP q = 1) (cmds : List CommandWord) :
    (okEvents cmds).countP q = cmds.length := by
  induction cmds with
  | nil => rfl
  | cons cw cmds ih =>
    rw [← List.singleton_append, okEvents_append, List.countP_append, ih, okEvents_singleton, hq, List.length_append,
      List.length_singleton]

/-- A successful end has recorded no failure. -/
theorem fail_notMem_of_success {cmds : List CommandWord} {s : State} (h : runEnd cmds s = .success) :
    .txDone .fail ∉ s.history := by
  intro hmem
  obtain ⟨-, hh⟩ := runEnd_success_iff.1 h
  have hok : .txDone .fail ∈ okEvents cmds := hh ▸ List.mem_filter.2 ⟨hmem, by decide⟩
  simp [okEvents] at hok

/-- At a successful end, events of which each command records one have been recorded once a command. -/
theorem countP_history_of_success {cmds : List CommandWord} {s : State} (h : runEnd cmds s = .success) {q : Event → Bool}
    (hr : q .reset = false) (hq : ∀ buf, [Event.txWrite buf, .txDone .ok].countP q = 1) :
    s.history.countP q = cmds.length := by
  obtain ⟨-, hh⟩ := runEnd_success_iff.1 h
  rw [← countP_withoutResets hr, hh, countP_okEvents hq]

/-! ### A further command after a successful end -/

/-- A command presented in IDLE on an empty port and answered ok: three steps, to IDLE with the port empty again. -/
theorem run_present_txok {s : State} {cw : CommandWord} {rest : List Input} (hf : s.fsm = .idle) (hc : s.cmd = none)
    (hp : s.phase ≠ .panicked) (hs : s.schedule = .present cw :: .txok :: rest) :
    ∃ t : State, (∀ n, Sys2Proof.core.run (n + 3) s = Sys2Proof.core.run n t) ∧ t.fsm = .idle ∧ t.cmd = none ∧
      t.phase = s.phase ∧ t.schedule = rest ∧ t.history = s.history ++ okEvents [cw] := by
  have hpresent := step_present hc hp hs
  obtain ⟨-, haccept⟩ := step_accept (s := tick (setCmd (some cw) (setSchedule (.txok :: rest) s))) rfl hf (by simp)
  have hok := step_txok
    (s := tick (setCmd none (startWrite (sentBy (decode cw)) (tick (setCmd (some cw) (setSchedule (.txok :: rest) s))))))
    rfl rfl
  exact ⟨_, fun n => (run_succ hpresent _).trans ((run_succ haccept _).trans (run_succ hok n)), rfl, rfl, rfl, rfl,
    List.append_assoc ..⟩

/-- The commands of a list, each presented and answered ok, lead from a successful end to that of the longer list. -/
theorem run_more_success {cmds more : List CommandWord} {s : State} (h : runEnd cmds s = .success) (hc : s.cmd = none)
    (hp : s.phase ≠ .panicked) (hs : s.schedule = more.flatMap fun cw => [.present cw, .txok]) :
    ∃ t : State, Sys2Proof.core.run (3 * more.length) s = .next t ∧ runEnd (cmds ++ more) t = .success ∧ t.schedule = [] := by
  induction more generalizing cmds s with
  | nil => exact ⟨s, rfl, (List.append_nil cmds).symm ▸ h, hs⟩
  | cons cw more ih =>
    obtain ⟨hf, hh⟩ := runEnd_success_iff.1 h
    obtain ⟨u, hrun, hfu, hcu, hpu, hsu, hhu⟩ := run_present_txok hf hc hp hs
    have hend : runEnd (cmds ++ [cw]) u = .success := by
      rw [runEnd_success_iff, hhu, withoutResets_append, hh, okEvents_append]
      exact ⟨hfu, rfl⟩
    obtain ⟨t, ht, hsuccess, hnil⟩ := ih hend hcu (hpu ▸ hp) hsu
    refine ⟨t, (hrun _).trans ht, ?_, hnil⟩
    rwa [List.append_assoc] at hsuccess

/-- Settles O55: from both ends nothing reaches the block; the counts are those of `okEvents`; and each further command takes three
steps. -/
theorem runEndsAreFinal : Obligations.RunEndsAreFinal := by
  refine ⟨fun n cmds s he hs hc => ?_, fun n cmds s he hs => ?_, fun cmds s he => ⟨fail_notMem_of_success he, ?_, ?_⟩,
    fun cmds more s he hc hp hs => run_more_success he hc hp hs⟩
  · have hund : Undisturbed s := ⟨.inr ⟨hc, hs⟩, by simp [hs]⟩
    exact hund.runEnd_final he n
  · have hf : s.fsm = .halt := runEnd_faulted_iff.1 he
    have hund : Undisturbed s := ⟨.inl (by simp [hf]), fun i hi => ⟨hs i hi, .inr (by simp [hf])⟩⟩
    exact hund.runEnd_final he n
  · exact countP_history_of_success he rfl fun _ => rfl
  · exact countP_history_of_success he rfl fun _ => rfl

end Sys2Proof.Machine

/-! PROOFS. Numbers that are no command word (30_encoding.md R55, R59; log entry 11). -/

namespace Sys2Proof

/-- A number with a bit above bit 32 is refused by name. -/
theorem decodeBits_of_le {w : Nat} (hw : 2 ^ 33 ≤ w) : decodeBits w = .error .widerThanCommandWord :=
  if_neg (Nat.not_lt.2 hw)

/-- A number the decoder refuses is no word of the table, whatever width the table gives. -/
theorem decodeTableWord_of_error (n : Nat) {w : Nat} {e : DecodeError} (h : decodeBits w = .error e) :
    decodeTableWord n w = none := by
  rw [decodeTableWord, h]

/-- Settles O5: 33-bit numbers by `decodeTableWord_of_lt`, and the table refuses exactly what `decodeBits` refuses. -/
theorem onlyCommandWordsDecode : Obligations.OnlyCommandWordsDecode := by
  refine fun n w => ⟨Machine.decodeTableWord_of_lt n, fun hw => ?_⟩
  have hrefused := decodeBits_of_le hw
  exact ⟨hrefused, decodeTableWord_of_error n hrefused⟩

end Sys2Proof
